-- ==== Sys2Proof/Word.lean ====
section
/-! DEFINITION. The word types of the engine: channel words, stored grid words and transport bytes. -/

namespace Sys2Proof

/-- A word of the command channel or of the response channel: 64 bits (rule R1). -/
abbrev Word := BitVec 64

/-- A byte of a byte-wide transport of a channel (rule R55). -/
abbrev Byte := BitVec 8

/-- A stored grid word, held at the widest word width 512 (rule R3): a W-bit word of rule R12 stands in its
low W bits and the bits above are 0. -/
abbrev GridWord := BitVec 512

end Sys2Proof
end

