-- ==== Sys2Proof/Syntax.lean ====
section
/-! DEFINITION. The command set of rule R2: one constructor for each row of spec/opcode_table.json, with every field of
its encoding (rule R83), the reserved ones included, because what a command does depends on them (rule R89). -/

namespace Sys2Proof

/-- The three reserved fields of CFG's H0 (rules R83 and R89): bits 19:18, bits 31:28 and bits 63:48. -/
structure CfgReserved where
  /-- H0[19:18]. -/
  low : BitVec 2
  /-- H0[31:28]. -/
  mid : BitVec 4
  /-- H0[63:48]. -/
  high : BitVec 16
deriving DecidableEq, Repr

/-- A command as the decoder hands it over (rules R80 to R84). LEN is the number of its payload words: the decoder
takes exactly LEN of them (rule R85). -/
inductive Instr where
  /-- CFG, opcode 0x01 (rule R120): H0 fields STRAT, LOG2W, LOG2L and PM1, then R and C from H1. -/
  | cfg (strat : BitVec 2) (log2w log2l : BitVec 4) (pm1 : BitVec 16) (rows cols : BitVec 32)
      (reserved : CfgReserved) (payload : List Word)
  /-- FILL, opcode 0x02 (rule R130): ROW and CHUNK from H1, H0[63:16] reserved, the cell bits as payload. -/
  | fill (row chunk : BitVec 32) (reserved : BitVec 48) (payload : List Word)
  /-- RDBIT, opcode 0x03 (rule R135): ROW and COL from H1, H0[63:16] reserved. -/
  | rdbit (row col : BitVec 32) (reserved : BitVec 48) (payload : List Word)
  /-- STEP, opcode 0x04 (rule R280): H0[63:16] and H1 reserved. -/
  | step (reserved : BitVec 48) (reservedH1 : Word) (payload : List Word)
  /-- STAT, opcode 0x05 (rule R320): H0[63:16] and H1 reserved. -/
  | stat (reserved : BitVec 48) (reservedH1 : Word) (payload : List Word)
deriving DecidableEq, Repr

/-- The payload words of a command (rule R80). -/
def Instr.payload : Instr → List Word
  | .cfg _ _ _ _ _ _ _ p => p
  | .fill _ _ _ p => p
  | .rdbit _ _ _ p => p
  | .step _ _ p => p
  | .stat _ _ p => p

end Sys2Proof
end

