-- ==== Sys2Proof/WellFormed.lean ====
section
/-! DEFINITION. Which terms of `Instr` are commands that exist as words. -/

namespace Sys2Proof

/-- A command is well formed when its payload length fits the 8-bit field LEN = H0[15:8] (rule R81). Everything else a
command can get wrong (a reserved bit, a wrong LEN, an illegal parameter) is an executable command that raises a
fatal error (rules R89, R90, R341), so it is no matter of form. -/
def Instr.wellFormed (i : Instr) : Bool := i.payload.length ≤ 255

end Sys2Proof
end

