-- ==== Sys2Proof/Decode.lean ====
section
/-! DEFINITION. The decoder of rules R80 to R86, total on every list of words, rejecting by name; after it the encoder
written from the same tables; the byte order of a byte-wide transport (rule R55); and the opcode table's own numbering
of an instruction's bits. -/

namespace Sys2Proof

/-- Why the decoder hands over no command. -/
inductive Reject where
  /-- Fewer than 2 + LEN words are there: the decoder waits for the rest (rule R85, 93 H2). -/
  | incomplete
  /-- OPC is none of 0x01 .. 0x05 (rule R88); the 2 + LEN words are consumed all the same. -/
  | illegalOpcode (opc : BitVec 8)
deriving DecidableEq, Repr

/-- OPC = H0[7:0] (rule R81). -/
def opcField (h0 : Word) : BitVec 8 := h0.extractLsb' 0 8

/-- LEN = H0[15:8], a count of payload words (rule R81). -/
def lenField (h0 : Word) : Nat := (h0.extractLsb' 8 8).toNat

/-- H0[63:16], reserved for every opcode but CFG (rule R81). -/
def bodyField (h0 : Word) : BitVec 48 := h0.extractLsb' 16 48

/-- A = H1[31:0] (rule R81). -/
def operandA (h1 : Word) : BitVec 32 := h1.extractLsb' 0 32

/-- B = H1[63:32] (rule R81). -/
def operandB (h1 : Word) : BitVec 32 := h1.extractLsb' 32 32

/-- The framing of rules R80 and R85: H0, H1 and exactly LEN payload words, whatever OPC is, and the words after them;
none while the command is not complete. -/
def splitCommand : List Word → Option (Word × Word × List Word × List Word)
  | h0 :: h1 :: tail =>
    if lenField h0 ≤ tail.length then some (h0, h1, tail.take (lenField h0), tail.drop (lenField h0)) else none
  | _ => none

/-- The fields of one whole command by the opcode map of rule R86 and the field table of rule R83. -/
def decodeFields (h0 h1 : Word) (payload : List Word) : Except Reject Instr :=
  if opcField h0 = 0x01 then
    .ok (.cfg (h0.extractLsb' 16 2) (h0.extractLsb' 20 4) (h0.extractLsb' 24 4) (h0.extractLsb' 32 16)
      (operandA h1) (operandB h1) ⟨h0.extractLsb' 18 2, h0.extractLsb' 28 4, h0.extractLsb' 48 16⟩ payload)
  else if opcField h0 = 0x02 then .ok (.fill (operandA h1) (operandB h1) (bodyField h0) payload)
  else if opcField h0 = 0x03 then .ok (.rdbit (operandA h1) (operandB h1) (bodyField h0) payload)
  else if opcField h0 = 0x04 then .ok (.step (bodyField h0) h1 payload)
  else if opcField h0 = 0x05 then .ok (.stat (bodyField h0) h1 payload)
  else .error (.illegalOpcode (opcField h0))

/-- The decoder on a stream of words: the first command and the words after it. It depends on no state (rule R91). -/
def decode (ws : List Word) : Except Reject (Instr × List Word) :=
  match splitCommand ws with
  | none => .error .incomplete
  | some (h0, h1, payload, rest) =>
    match decodeFields h0 h1 payload with
    | .ok i => .ok (i, rest)
    | .error e => .error e

/-- H0 from its three parts, most significant first (rule R81). -/
def headerWord (body : BitVec 48) (payload : List Word) (opc : BitVec 8) : Word :=
  body ++ BitVec.ofNat 8 payload.length ++ opc

/-- H0[63:16] of CFG, most significant field first (rule R83). -/
def cfgBody (strat : BitVec 2) (log2w log2l : BitVec 4) (pm1 : BitVec 16) (rsv : CfgReserved) : BitVec 48 :=
  rsv.high ++ pm1 ++ rsv.mid ++ log2l ++ log2w ++ rsv.low ++ strat

/-- H1 from its operands: B above A (rule R81). -/
def operandWord (a b : BitVec 32) : Word := b ++ a

/-- The words of a command, in channel order (rules R80 and R83). -/
def encode : Instr → List Word
  | .cfg strat log2w log2l pm1 rows cols rsv p =>
    headerWord (cfgBody strat log2w log2l pm1 rsv) p 0x01 :: operandWord rows cols :: p
  | .fill row chunk rsv p => headerWord rsv p 0x02 :: operandWord row chunk :: p
  | .rdbit row col rsv p => headerWord rsv p 0x03 :: operandWord row col :: p
  | .step rsv h1 p => headerWord rsv p 0x04 :: h1 :: p
  | .stat rsv h1 p => headerWord rsv p 0x05 :: h1 :: p

/-- The eight bytes of a channel word on a byte-wide transport: byte 0 is bits 7:0 (rule R55). -/
def wordToBytes (w : Word) : List Byte :=
  [w.extractLsb' 0 8, w.extractLsb' 8 8, w.extractLsb' 16 8, w.extractLsb' 24 8,
   w.extractLsb' 32 8, w.extractLsb' 40 8, w.extractLsb' 48 8, w.extractLsb' 56 8]

/-- The bytes of a stream of channel words on a byte-wide transport, first word first (rule R55). -/
def wordsToBytes : List Word → List Byte
  | [] => []
  | w :: ws => wordToBytes w ++ wordsToBytes ws

/-- The channel words of a byte-wide transport (rule R55), and the bytes of a word not yet whole. -/
def bytesToWords : List Byte → List Word × List Byte
  | b0 :: b1 :: b2 :: b3 :: b4 :: b5 :: b6 :: b7 :: bs =>
    ((b7 ++ b6 ++ b5 ++ b4 ++ b3 ++ b2 ++ b1 ++ b0) :: (bytesToWords bs).1, (bytesToWords bs).2)
  | bs => ([], bs)

/-- `n` channel words cut from a number, the first from its lowest 64 bits. -/
def wordsOfNat : Nat → Nat → List Word
  | 0, _ => []
  | n + 1, v => BitVec.ofNat 64 v :: wordsOfNat n (v >>> 64)

/-- The channel words of the instruction whose bits are `w`, numbered as spec/opcode_table.json numbers them; every bit
from `nbits` upward is 0, and the command has the 2 + LEN words its H0 asks for (rule R80). -/
def commandWords (nbits w : Nat) : List Word :=
  wordsOfNat (2 + lenField (BitVec.ofNat 64 (w % 2 ^ nbits))) (w % 2 ^ nbits)

/-- The instruction the decoder reads from the bits `w` of an opcode-table row; none where it refuses. -/
def decodeTableWord (nbits w : Nat) : Option Instr :=
  match decode (commandWords nbits w) with
  | .ok (i, _) => some i
  | .error _ => none

end Sys2Proof
end

