-- ==== Sys2Proof/Config.lean ====
section
/-! DEFINITION. What the spec leaves open and no state component holds: the contents of storage nobody has written. -/

namespace Sys2Proof

/-- FREE VALUE (log 4, DESIGN CHOICE, safe). The word that element `i` of buffer `b` holds in the `epoch`-th
construction until a FILL or a STEP writes it: unspecified by rules R32, R132 and R350, so it has no body and nothing can
be proved of its value. -/
opaque Config.unseededWord (epoch : Nat) (b : Bool) (i : Nat) : GridWord

end Sys2Proof
end

