-- ==== Sys2Proof/Machine/State.lean ====
section
/-! DEFINITION. The engine's state as plain data (rule R20), the reasons a step could stop, and the state after reset
(rule R32). -/

namespace Sys2Proof.Machine

/-- Why the machine would stop with a fault: no reason exists. Every error of the spec is a transition into the fatal
state (rules R340, R345), and the spec's model fault UNINIT_READ (rule R350) is recorded in `State.uninitRead` while the
machine goes on as the hardware does (log 5, DESIGN CHOICE, safe). -/
inductive Fault where
deriving DecidableEq, Repr

/-- Why a step has no meaning. -/
inductive Refusal where
  /-- Raised only by an arm of `exec` whose instruction has no meaning yet; no arm raises it today. Safe: a refused
  step makes no claim about the hardware. -/
  | notModelled (mnemonic : String)
deriving DecidableEq, Repr

/-- The causes a command can raise (rule R341), each with its raisers there. -/
inductive Cause where
  | dimNotMultiple
  | allocFail
  | badParam
  | alreadyConfigured
  | notConfigured
  | illegalOpcode
  | reservedField
  | badLength
deriving DecidableEq, Repr

/-- CFGREG, the configuration register set of rule R23, at the widths given there. -/
structure CfgReg where
  R : BitVec 32
  C : BitVec 32
  LOG2W : BitVec 4
  STRAT : BitVec 2
  LOG2L : BitVec 4
  P : BitVec 17
deriving DecidableEq, Repr

/-- One generation buffer (rules R12, R28): its written elements, by element index, strictly rising. An element not
listed has WRITTEN false (rule R30) and has no value of its own. -/
abbrev Memory := List (Nat × GridWord)

/-- A move of the host (rule R394); it has no other. -/
inductive HostMove where
  /-- Sends one word on the command channel (rule R80). -/
  | word (w : Word)
  /-- Takes the oldest response word (rule R385). -/
  | take
  /-- Asserts the reset input, between commands (rule R380). -/
  | reset
deriving DecidableEq, Repr

/-- The state tuple of rule R20 with the ghost map of rule R30, and the model's own fields after it. -/
structure State where
  /-- CFGD: a CFG has succeeded. -/
  cfgd : Bool
  /-- FATAL: an error has been raised. -/
  fatal : Bool
  /-- CAUSE: the code of the first error. -/
  cause : BitVec 8
  /-- CFGREG. -/
  cfgreg : CfgReg
  /-- CUR, the index of the current buffer: false is 0, true is 1 (rule R25). -/
  cur : Bool
  /-- buf[0] with WRITTEN[0]. -/
  buf0 : Memory
  /-- buf[1] with WRITTEN[1]. -/
  buf1 : Memory
  /-- DEC: the words of a command partly received, oldest first; idle is the empty list (rules R21, R85). -/
  dec : List Word
  /-- RSPQ: the response words the host has not taken, oldest first. -/
  rspq : List Word
  /-- Model-only: the response words the host has taken since the last reset, oldest first. The response sequence a run
  yields is these and then RSPQ (rule R393; log 20, DEDUCED, safe). -/
  taken : List Word
  /-- Model-only: UNINIT_READ has been recorded (rule R350; log 5, DESIGN CHOICE, safe). -/
  uninitRead : Bool
  /-- Model-only: the number of constructions, the free words' argument (log 4, DESIGN CHOICE). -/
  epoch : Nat
  /-- The OPEN parameter CAPACITY_BITS of this instance (rule R9); no step writes it (log 1, DESIGN CHOICE). -/
  capacity : Nat
  /-- Model-only: the host's moves the engine has not seen yet, oldest first (log 2, DESIGN CHOICE). -/
  host : List HostMove
deriving DecidableEq, Repr

/-- The state after reset of an instance with `capacity` bits of storage (rule R32). CFGREG, unspecified there and not used
while CFGD is 0, is zero (log 3, DESIGN CHOICE, unsafe). -/
def State.resetWith (capacity : Nat) : State :=
  { cfgd := false, fatal := false, cause := 0x00, cfgreg := ⟨0, 0, 0, 0, 0, 0⟩, cur := false, buf0 := [], buf1 := [],
    dec := [], rspq := [], taken := [], uninitRead := false, epoch := 0, capacity := capacity, host := [] }

/-- The state after reset (rule R32). CAPACITY_BITS is OPEN (rule R9): this one instance has 2^40 bits, the figure that
95_test_vectors.md uses (log 1, DESIGN CHOICE). -/
def State.reset : State := State.resetWith (2 ^ 40)

end Sys2Proof.Machine
end

