-- ==== Sys2Proof/Machine/Flags.lean ====
section
/-! DEFINITION. The status the engine shows: the cause codes of rule R341 and the STATUS view of rule R24. There are no
arithmetic flags (rule R26). -/

namespace Sys2Proof.Machine

/-- The cause codes of rule R341; 0x00 is NONE and is never raised. -/
def Cause.code : Cause → BitVec 8
  | .dimNotMultiple => 0x01
  | .allocFail => 0x02
  | .badParam => 0x03
  | .alreadyConfigured => 0x04
  | .notConfigured => 0x05
  | .illegalOpcode => 0x06
  | .reservedField => 0x07
  | .badLength => 0x08

/-- STATUS (rule R24): bit 0 CFGD, bit 1 FATAL, bit 2 CUR, bits 7:3 zero, bits 15:8 CAUSE, bits 63:16 zero. -/
def statusWord (s : State) : Word :=
  0#48 ++ s.cause ++ 0#5 ++ BitVec.ofBool s.cur ++ BitVec.ofBool s.fatal ++ BitVec.ofBool s.cfgd

/-- The word a RDBIT that is not executed responds with (rule R87): bit 63 set, all else 0. -/
def errorWord : Word := 0x8000000000000000

end Sys2Proof.Machine
end

