-- ==== Sys2Proof/Machine/Ops.lean ====
section
/-! DEFINITION. The named operations over the state: the words of a buffer, the roles of the two buffers, the response
channel, the entry into the fatal state (the engine's one exception) and the one way out of it, reset. -/

namespace Sys2Proof.Machine

/-- The written word of element `i`, none where WRITTEN is false (rule R30). -/
def Memory.read : Memory → Nat → Option GridWord
  | [], _ => none
  | (k, v) :: m, i => if k = i then some v else Memory.read m i

/-- Sets element `i` to `v` and its WRITTEN entry to true, keeping the list strictly rising. -/
def Memory.write : Memory → Nat → GridWord → Memory
  | [], i, v => [(i, v)]
  | (k, x) :: m, i, v =>
    if i < k then (i, v) :: (k, x) :: m
    else if i = k then (i, v) :: m
    else (k, x) :: Memory.write m i v

/-- The canonical form: element indices strictly rising. An unlisted element reads as no word, and every entry is a
word, so no entry equals what an unlisted element reads as. -/
abbrev Memory.wf (m : Memory) : Prop := (m.map Prod.fst).Pairwise (· < ·)

/-- buf[b] (rule R12). -/
def State.buf (s : State) (b : Bool) : Memory := if b then s.buf1 else s.buf0

/-- Replaces buf[b]. -/
def State.setBuf (s : State) (b : Bool) (m : Memory) : State :=
  if b then { s with buf1 := m } else { s with buf0 := m }

/-- WRITTEN[b][i] (rule R30). -/
def State.written (s : State) (b : Bool) (i : Nat) : Bool := ((s.buf b).read i).isSome

/-- GRead(b, i) (rule R12): the word written there, or the unspecified word the storage holds (rules R32, R350). -/
def State.gread (s : State) (b : Bool) (i : Nat) : GridWord :=
  ((s.buf b).read i).getD (Config.unseededWord s.epoch b i)

/-- GWrite(b, i, v) with WRITTEN[b][i] set true (rules R12, R30). -/
def State.gwrite (s : State) (b : Bool) (i : Nat) (v : GridWord) : State := s.setBuf b ((s.buf b).write i v)

/-- `respond(v)`: appends a word to the response channel (rule R13). -/
def respond (v : Word) (s : State) : State := { s with rspq := s.rspq ++ [v] }

/-- The response words since the last reset, in order, whether or not the host has taken them (rules R87, R393). -/
def State.responses (s : State) : List Word := s.taken ++ s.rspq

/-- `raise Fatal(cause)` (rule R345): the entry into the fatal state. The first cause is kept; nothing else changes. -/
def raiseFatal (c : Cause) (s : State) : State :=
  if s.fatal then s else { s with fatal := true, cause := c.code }

/-- `fail(X)` of 40_construction_gridstore.md: raises the cause and ends the command. -/
def failCommand (c : Cause) (s : State) : Host.Outcome State Fault Refusal := .next (raiseFatal c s)

/-- Records the model fault UNINIT_READ when `bad`; once recorded it is never cleared (rule R350). -/
def recordUninit (bad : Bool) (s : State) : State := { s with uninitRead := s.uninitRead || bad }

/-- The reset transition (rules R32, R380): every component of the engine takes its value after reset. What is not the
engine's stays: the parameter, the free words' counter, the UNINIT_READ record and the host's later moves (log 13, DESIGN
CHOICE, unsafe). -/
def resetTransition (s : State) : State :=
  { State.resetWith s.capacity with uninitRead := s.uninitRead, epoch := s.epoch, host := s.host }

/-- The host takes the oldest response word, which stays part of what the run yields (rules R385, R393, R394); with no
response there, nothing happens (log 11, DESIGN CHOICE, unsafe). -/
def takeResponse (s : State) : State := { s with rspq := s.rspq.tail, taken := s.taken ++ s.rspq.take 1 }

end Sys2Proof.Machine
end

