-- ==== Sys2Proof/Machine/Operands.lean ====
section
/-! DEFINITION. Operands: the quantities CFGREG fixes (rules R3 to R8), coordinates and their reduction (rules R82, R52),
the FILL payload (rule R84) and the nibble layout (rule R131). -/

namespace Sys2Proof.Machine

/-- The word of width `w` whose bit `i` is `f i`, built from its lowest `n` bits. -/
def bitsBelow (w : Nat) (f : Nat → Bool) : Nat → BitVec w
  | 0 => 0
  | n + 1 => bitsBelow w f n ||| (if f n then BitVec.twoPow w n else 0)

/-- The word of width `w` whose bit `i` is `f i` (rule R10). -/
def ofBits (w : Nat) (f : Nat → Bool) : BitVec w := bitsBelow w f w

/-- R, the rows (rule R4). -/
def CfgReg.rows (g : CfgReg) : Nat := g.R.toNat

/-- C, the columns (rule R4). -/
def CfgReg.cols (g : CfgReg) : Nat := g.C.toNat

/-- W = 2^LOG2W, the word width (rule R3). -/
def CfgReg.W (g : CfgReg) : Nat := 2 ^ g.LOG2W.toNat

/-- L = 2^LOG2L, the vector lane width (rule R7). -/
def CfgReg.L (g : CfgReg) : Nat := 2 ^ g.LOG2L.toNat

/-- s, the bits of a cell slot, by the strategy (rule R6). -/
def cellBits (strat : BitVec 2) : Nat := if strat = 0 then 1 else 4

/-- s (rule R6). -/
def CfgReg.s (g : CfgReg) : Nat := cellBits g.STRAT

/-- m = W / s, the cells of a word (rule R6). -/
def CfgReg.m (g : CfgReg) : Nat := g.W / g.s

/-- wpr = C / m, the words of a row (rule R6). -/
def CfgReg.wpr (g : CfgReg) : Nat := g.cols / g.m

/-- The elements of one buffer, R * wpr (rule R51). -/
def CfgReg.elements (g : CfgReg) : Nat := g.rows * g.wpr

/-- The W-cell chunks of a row, C / W (rule R130). -/
def CfgReg.chunks (g : CfgReg) : Nat := g.cols / g.W

/-- NP = max(1, W / 64), the payload words of FILL (rule R90). -/
def CfgReg.NP (g : CfgReg) : Nat := max 1 (g.W / 64)

/-- P, the workers (rule R8). -/
def CfgReg.workers (g : CfgReg) : Nat := g.P.toNat

/-- Floor modulo of a coordinate against a dimension (rules R11, R82). -/
def wrap (x : Int) (n : Nat) : Nat := (x % (n : Int)).toNat

/-- A coordinate operand: the 32-bit field as a two's-complement integer (rule R82). -/
def coord (field : BitVec 32) : Int := field.toInt

/-- CellAddr(row, col) (rule R52): the element index and the bit of the cell's value. -/
def cellAddr (g : CfgReg) (row col : Int) : Nat × Nat :=
  (wrap row g.rows * g.wpr + wrap col g.cols / g.m, g.s * (wrap col g.cols % g.m))

/-- The fill value v = (P_(NP-1), ..., P_0)[W-1:0] (rule R84). -/
def assemblePayload (w : Nat) : List Word → BitVec w
  | [] => 0
  | p :: ps => p.setWidth w ||| (assemblePayload w ps <<< 64)

/-- Whether P_0[63:W] is not 0 (rules R84, R89), which matters only when W < 64. -/
def payloadOverflows (w : Nat) (payload : List Word) : Bool := payload.headD 0 >>> w != 0

/-- Word q of the four words that hold the W cells of a chunk under STRAT 1: slot t takes v[q*(W/4) + t] (rule R131). -/
def nibbleWord {w : Nat} (v : BitVec w) (q : Nat) : BitVec w :=
  ofBits w fun i => i % 4 == 0 && v.getLsbD (q * (w / 4) + i / 4)

end Sys2Proof.Machine
end

