-- ==== Sys2Proof/Machine/Construction.lean ====
section
/-! DEFINITION. Construction: the command CFG (rules R120 to R124). -/

namespace Sys2Proof.Machine

/-- The legal field values of CFG (rules R3, R4, R6, R7): otherwise BAD_PARAM. -/
def paramsLegal (strat : BitVec 2) (log2w log2l : BitVec 4) (rows cols : BitVec 32) : Bool :=
  strat.toNat ≤ 1 && 3 ≤ log2w.toNat && log2w.toNat ≤ 9 && 3 ≤ log2l.toNat && log2l.toNat ≤ log2w.toNat
    && rows != 0 && cols != 0

/-- The storage both buffers need, 2 * R * C * s bits (rules R51, R124). -/
def storageBits (strat : BitVec 2) (rows cols : BitVec 32) : Nat := 2 * rows.toNat * cols.toNat * cellBits strat

/-- A successful CFG (rules R32, R120): CFGREG is written, CFGD set, CUR cleared and WRITTEN false everywhere; the
buffers' contents are unspecified, those of a new construction (log 4, DESIGN CHOICE). -/
def construct (g : CfgReg) (s : State) : State :=
  { s with cfgreg := g, cfgd := true, cur := false, buf0 := [], buf1 := [], epoch := s.epoch + 1 }

/-- CFG (rule R120). -/
def execCfg (strat : BitVec 2) (log2w log2l : BitVec 4) (pm1 : BitVec 16) (rows cols : BitVec 32)
    (reserved : CfgReserved) (payload : List Word) (s : State) : Host.Outcome State Fault Refusal :=
  if s.fatal then .next s
  else if reserved.low ≠ 0 ∨ reserved.mid ≠ 0 ∨ reserved.high ≠ 0 then failCommand .reservedField s
  else if s.cfgd then failCommand .alreadyConfigured s
  else if payload.length ≠ 0 then failCommand .badLength s
  else if paramsLegal strat log2w log2l rows cols = false then failCommand .badParam s
  else if cols.toNat % 2 ^ log2w.toNat ≠ 0 then failCommand .dimNotMultiple s
  else if storageBits strat rows cols > s.capacity then failCommand .allocFail s
  else .next (construct ⟨rows, cols, log2w, strat, log2l, pm1.setWidth 17 + 1⟩ s)

end Sys2Proof.Machine
end

