-- ==== Sys2Proof/Machine/CarrySaveCounter.lean ====
section
/-! DEFINITION. CarrySaveCounter: the fold of the neighbor words into three bit-planes (rules R200 to R202). -/

namespace Sys2Proof.Machine

/-- The three plane words of one word's count (rule R200). -/
structure Planes (w : Nat) where
  b1 : BitVec w
  b2 : BitVec w
  b4 : BitVec w
deriving DecidableEq, Repr

/-- One iteration of the fold (rule R202): carry = b1 & N, promote = b2 & carry. -/
def foldNeighbor {w : Nat} (p : Planes w) (n : BitVec w) : Planes w :=
  { b1 := p.b1 ^^^ n, b2 := p.b2 ^^^ (p.b1 &&& n), b4 := p.b4 ||| (p.b2 &&& (p.b1 &&& n)) }

/-- CSC(N_0, ..., N_7): the fold from all-zero planes (rules R201, R202). -/
def csc {w : Nat} (ns : List (BitVec w)) : Planes w := ns.foldl foldNeighbor ⟨0, 0, 0⟩

end Sys2Proof.Machine
end

