-- ==== Sys2Proof/Machine/NibbleCounter.lean ====
section
/-! DEFINITION. NibbleCounter: the sum of the neighbor words and the planes taken from it (rules R250 to R253). -/

namespace Sys2Proof.Machine

/-- M, the slot mask: bit 4*t set for every slot t (44_nibble_counter.md, opening). -/
def slotMask (w : Nat) : BitVec w := ofBits w fun i => i % 4 == 0

/-- S, the sum of the neighbor words modulo 2^W (rule R252). -/
def nibbleSum {w : Nat} (ns : List (BitVec w)) : BitVec w := ns.foldl (· + ·) 0

/-- NIB(N_0, ..., N_7): the planes by mask and shift; bit 3 of a count goes into no plane (rule R253). -/
def nib {w : Nat} (ns : List (BitVec w)) : Planes w :=
  { b1 := nibbleSum ns &&& slotMask w
    b2 := (nibbleSum ns >>> 1) &&& slotMask w
    b4 := (nibbleSum ns >>> 2) &&& slotMask w }

end Sys2Proof.Machine
end

