-- ==== Sys2Proof/Machine/RuleEvaluator.lean ====
section
/-! DEFINITION. RuleEvaluator: Conway's rule on the bit-planes (rules R230, R231) and the cell-level law it implements
(rule R234). -/

namespace Sys2Proof.Machine

/-- Rule(b1, b2, b4, alive) = b2 & (b1 | alive) & ~b4 (rule R231). -/
def evalRule {w : Nat} (p : Planes w) (alive : BitVec w) : BitVec w := p.b2 &&& (p.b1 ||| alive) &&& ~~~p.b4

/-- B3S23(n, a) (rule R234). -/
def b3s23 (n : Nat) (a : Bool) : Bool := if n = 3 then true else if n = 2 then a else false

end Sys2Proof.Machine
end

