-- ==== Sys2Proof/Machine/GridStore.lean ====
section
/-! DEFINITION. GridStore: its word and cell ports (rules R53, R125, R126) and the commands FILL (rule R130) and RDBIT
(rule R135). -/

namespace Sys2Proof.Machine

/-- GWord(r, k) (rule R125): the current-buffer word of row r and word column k, both wrapped, as a W-bit word. -/
def gword (s : State) (r k : Int) : BitVec s.cfgreg.W :=
  (s.gread s.cur (wrap r s.cfgreg.rows * s.cfgreg.wpr + wrap k s.cfgreg.wpr)).setWidth s.cfgreg.W

/-- Cell(b, row, col) (rule R53): alive is true. -/
def cell (s : State) (b : Bool) (row col : Int) : Bool :=
  (s.gread b (cellAddr s.cfgreg row col).1).getLsbD (cellAddr s.cfgreg row col).2

/-- Writes the four words of a chunk under STRAT 1, q = 0 .. 3 (rule R131). -/
def writeNibbleChunk (g : CfgReg) (m : Memory) (base : Nat) (v : BitVec g.W) : Memory :=
  (List.range 4).foldl (fun m q => m.write (base + q) ((nibbleWord v q).setWidth 512)) m

/-- Writes the W cells of chunk k of row r into the current buffer, both reduced (rule R130). -/
def fillChunk (s : State) (row chunk : Int) (v : BitVec s.cfgreg.W) : State :=
  if s.cfgreg.STRAT = 0 then
    s.gwrite s.cur (wrap row s.cfgreg.rows * s.cfgreg.wpr + wrap chunk s.cfgreg.chunks) (v.setWidth 512)
  else
    s.setBuf s.cur (writeNibbleChunk s.cfgreg (s.buf s.cur)
      (wrap row s.cfgreg.rows * s.cfgreg.wpr + 4 * wrap chunk s.cfgreg.chunks) v)

/-- FILL (rule R130). -/
def execFill (row chunk : BitVec 32) (reserved : BitVec 48) (payload : List Word) (s : State) :
    Host.Outcome State Fault Refusal :=
  if s.fatal then .next s
  else if reserved ≠ 0 then failCommand .reservedField s
  else if s.cfgd = false then failCommand .notConfigured s
  else if payload.length ≠ s.cfgreg.NP then failCommand .badLength s
  else if s.cfgreg.W < 64 ∧ payloadOverflows s.cfgreg.W payload = true then failCommand .reservedField s
  else .next (fillChunk s (coord row) (coord chunk) (assemblePayload s.cfgreg.W payload))

/-- `fail(X)` of RDBIT: raises the cause and responds the error word (rules R87, R345). -/
def failRead (c : Cause) (s : State) : Host.Outcome State Fault Refusal := .next (respond errorWord (raiseFatal c s))

/-- The response word of an executed RDBIT: bit 0 the cell, bits 63:1 zero (rule R87). -/
def cellWord (alive : Bool) : Word := (BitVec.ofBool alive).setWidth 64

/-- An executed RDBIT: records UNINIT_READ for an unwritten element and responds the cell (rules R135, R350). -/
def readCell (s : State) (row col : Int) : State :=
  respond (cellWord (cell s s.cur row col))
    (recordUninit (!s.written s.cur (cellAddr s.cfgreg row col).1) s)

/-- RDBIT (rule R135). -/
def execRdbit (row col : BitVec 32) (reserved : BitVec 48) (payload : List Word) (s : State) :
    Host.Outcome State Fault Refusal :=
  if s.fatal then .next (respond errorWord s)
  else if reserved ≠ 0 then failRead .reservedField s
  else if s.cfgd = false then failRead .notConfigured s
  else if payload.length ≠ 0 then failRead .badLength s
  else .next (readCell s (coord row) (coord col))

end Sys2Proof.Machine
end

