-- ==== Sys2Proof/Machine/ShiftEngine.lean ====
section
/-! DEFINITION. ShiftEngine: the eight neighbor words of a word, scalar (rules R162 to R165) and by vector lanes with the
cross-lane carry (rule R170). -/

namespace Sys2Proof.Machine

/-- One component of an offset: -1, 0 or +1 (rule R14). -/
inductive Delta where
  | minus
  | zero
  | plus
deriving DecidableEq, Repr

/-- The integer an offset component stands for. -/
def Delta.toInt : Delta → Int
  | .minus => -1
  | .zero => 0
  | .plus => 1

/-- The eight offsets (dx, dy) in the order N_0 .. N_7 (rule R14). -/
def offsets : List (Delta × Delta) :=
  [(.minus, .minus), (.zero, .minus), (.plus, .minus), (.minus, .zero),
   (.plus, .zero), (.minus, .plus), (.zero, .plus), (.plus, .plus)]

/-- The scalar neighbor word of column offset `dx` from the primary word `v`, the word below `below` (k - 1) and the word
above `above` (k + 1), with slots of `s` bits (rules R163, R164, R165). -/
def shiftScalar {w : Nat} (s : Nat) (dx : Delta) (v below above : BitVec w) : BitVec w :=
  match dx with
  | .zero => v
  | .minus => (v <<< s) ||| (below >>> (w - s))
  | .plus => (v >>> s) ||| ((above &&& BitVec.ofNat w (2 ^ s - 1)) <<< (w - s))

/-- Lane q of a word: bits q*L + L - 1 down to q*L (rule R27). -/
def lane {w : Nat} (l : Nat) (v : BitVec w) (q : Nat) : BitVec l := v.extractLsb' (q * l) l

/-- Lane q of the vector neighbor word (rule R170): the native shift inside the lane, and the boundary slot of the next
lane, or of the adjacent word at the word's end. `n` is the number of lanes. -/
def shiftLane {w : Nat} (l s n : Nat) (dx : Delta) (v below above : BitVec w) (q : Nat) : BitVec l :=
  match dx with
  | .zero => lane l v q
  | .minus =>
    (lane l v q <<< s) ||| (if 0 < q then lane l v (q - 1) >>> (l - s) else (below >>> (w - s)).setWidth l)
  | .plus =>
    (lane l v q >>> s) |||
      (((if q < n - 1 then lane l v (q + 1) else above.setWidth l) &&& BitVec.ofNat l (2 ^ s - 1)) <<< (l - s))

/-- The vector neighbor word: its lane q is `shiftLane q` for q = 0 .. W/L - 1 (rule R170). -/
def shiftVector {w : Nat} (l s : Nat) (dx : Delta) (v below above : BitVec w) : BitVec w :=
  ofBits w fun i => (shiftLane l s (w / l) dx v below above (i / l)).getLsbD (i % l)

/-- The neighbor word from the three words it needs: scalar when L = W, by lanes when L < W (rules R7, R170). -/
def shiftWord (g : CfgReg) (dx : Delta) (v below above : BitVec g.W) : BitVec g.W :=
  if g.L = g.W then shiftScalar g.s dx v below above else shiftVector g.L g.s dx v below above

/-- Nbr(dx, dy, r, k) (rules R160 to R165): the row offset selects another row's words, the column offset shifts. -/
def nbr (s : State) (dx dy : Delta) (r k : Int) : BitVec s.cfgreg.W :=
  shiftWord s.cfgreg dx (gword s (r + dy.toInt) k) (gword s (r + dy.toInt) (k - 1)) (gword s (r + dy.toInt) (k + 1))

/-- The neighbor words N_0 .. N_7 of word (r, k) (rule R169). -/
def neighborWords (s : State) (r k : Int) : List (BitVec s.cfgreg.W) := offsets.map fun d => nbr s d.1 d.2 r k

end Sys2Proof.Machine
end

