-- ==== Sys2Proof/Machine/Generation.lean ====
section
/-! DEFINITION. The generation step: the word update (rule R281), the row partition of the ParallelDispatcher (rules R290
to R292), the fill of the next buffer and the swap (rules R282, R283), and the command STEP (rule R280). -/

namespace Sys2Proof.Machine

/-- The planes of a word by the configured counter (rule R281). -/
def countPlanes {w : Nat} (strat : BitVec 2) (ns : List (BitVec w)) : Planes w := if strat = 0 then csc ns else nib ns

/-- NextWord(r, k) (rule R281): ShiftEngine, counter, RuleEvaluator, all from the current buffer. -/
def nextWord (s : State) (r k : Nat) : BitVec s.cfgreg.W :=
  evalRule (countPlanes s.cfgreg.STRAT (neighborWords s r k)) (gword s r k)

/-- The rows of worker w of P: floor(w * R / P) .. floor((w + 1) * R / P) - 1 (rule R291). -/
def workerRows (rows p w : Nat) : List Nat := List.range' (w * rows / p) ((w + 1) * rows / p - w * rows / p)

/-- The words of a STEP in the order the workers compute them: worker by worker, row by row (rules R290, R291). -/
def stepWords (g : CfgReg) : List (Nat × Nat) :=
  ((List.range g.workers).flatMap (workerRows g.rows g.workers)).flatMap fun r => (List.range g.wpr).map fun k => (r, k)

/-- The next buffer once every word of it is written from the current one (rules R280, R282). -/
def nextBuffer (s : State) : Memory :=
  (stepWords s.cfgreg).foldl
    (fun m rk => m.write (rk.1 * s.cfgreg.wpr + rk.2) ((nextWord s rk.1 rk.2).setWidth 512)) (s.buf (!s.cur))

/-- Every element of the current buffer is written (rule R280's check). -/
def State.seeded (s : State) : Bool := (List.range s.cfgreg.elements).all (s.written s.cur)

/-- The swap CUR <- 1 - CUR (rules R25, R283). -/
def swapBuffers (s : State) : State := { s with cur := !s.cur }

/-- One generation (rules R280 to R283): the next buffer is filled from the state before the step, then the roles swap;
UNINIT_READ is recorded when an element of the current buffer is unwritten (rule R350). -/
def advance (s : State) : State :=
  swapBuffers ((recordUninit (!s.seeded) s).setBuf (!s.cur) (nextBuffer s))

/-- STEP (rule R280). -/
def execStep (reserved : BitVec 48) (reservedH1 : Word) (payload : List Word) (s : State) :
    Host.Outcome State Fault Refusal :=
  if s.fatal then .next s
  else if reserved ≠ 0 ∨ reservedH1 ≠ 0 then failCommand .reservedField s
  else if s.cfgd = false then failCommand .notConfigured s
  else if payload.length ≠ 0 then failCommand .badLength s
  else .next (advance s)

end Sys2Proof.Machine
end

