-- ==== Sys2Proof/Machine/Status.lean ====
section
/-! DEFINITION. The status command STAT (rules R320, R321). -/

namespace Sys2Proof.Machine

/-- What STAT's own checks leave: the error of a malformed STAT raised, in a state not yet fatal (rule R320). -/
def checkStat (reserved : BitVec 48) (reservedH1 : Word) (payload : List Word) (s : State) : State :=
  if s.fatal then s
  else if reserved ≠ 0 ∨ reservedH1 ≠ 0 then raiseFatal .reservedField s
  else if payload.length ≠ 0 then raiseFatal .badLength s
  else s

/-- STAT (rule R320): responds STATUS after any error it raises itself; legal in every state. -/
def execStat (reserved : BitVec 48) (reservedH1 : Word) (payload : List Word) (s : State) :
    Host.Outcome State Fault Refusal :=
  .next (respond (statusWord (checkStat reserved reservedH1 payload s)) (checkStat reserved reservedH1 payload s))

end Sys2Proof.Machine
end

