-- ==== Sys2Proof/Machine/Dispatch.lean ====
section
/-! DEFINITION. The meaning of each command: one arm for each constructor of Instr. -/

namespace Sys2Proof.Machine

/-- Executes a decoded command; each meaning begins with the gate of rule R344. -/
def exec (i : Instr) (s : State) : Host.Outcome State Fault Refusal :=
  match i with
  | .cfg strat log2w log2l pm1 rows cols rsv p => Sys2Proof.Machine.execCfg strat log2w log2l pm1 rows cols rsv p s
  | .fill row chunk rsv p => Sys2Proof.Machine.execFill row chunk rsv p s
  | .rdbit row col rsv p => Sys2Proof.Machine.execRdbit row col rsv p s
  | .step rsv h1 p => Sys2Proof.Machine.execStep rsv h1 p s
  | .stat rsv h1 p => Sys2Proof.Machine.execStat rsv h1 p s

end Sys2Proof.Machine
end

