-- ==== Sys2Proof/Machine/Command.lean ====
section
/-! DEFINITION. The command channel: receiving a command (rule R85), the gate for illegal opcodes (rules R88, R344), the
host's moves (rule R394), and placing a command where the next step takes it. -/

namespace Sys2Proof.Machine

/-- The words that stand next on the command channel, and the host's moves after them. -/
def leadingWords : List HostMove → List Word × List HostMove
  | .word w :: ms => (w :: (leadingWords ms).1, (leadingWords ms).2)
  | ms => ([], ms)

/-- Words as moves of the host. -/
def sendWords (ws : List Word) : List HostMove := ws.map HostMove.word

/-- Runs one whole command (rules R85, R344): a legal opcode by its meaning; an illegal one, consumed like any other,
raises Fatal(ILLEGAL_OPCODE) and does nothing else (rule R88). -/
def runCommand (h0 h1 : Word) (payload : List Word) (s : State) : Host.Outcome State Fault Refusal :=
  match decodeFields h0 h1 payload with
  | .ok i => exec i s
  | .error _ => failCommand .illegalOpcode s

/-- The decoder takes words from the channel (rule R85): once 2 + LEN words are there the command runs, with DEC idle
again; until then the words it has wait in DEC and nothing else happens (93 H2). -/
def receive (s : State) : Host.Outcome State Fault Refusal :=
  match splitCommand (s.dec ++ (leadingWords s.host).1) with
  | none => .next { s with dec := s.dec ++ (leadingWords s.host).1, host := (leadingWords s.host).2 }
  | some (h0, h1, payload, rest) =>
    runCommand h0 h1 payload { s with dec := [], host := sendWords rest ++ (leadingWords s.host).2 }

/-- The engine's next transition: the reset input or a response taken when that is the host's next move, otherwise the
command channel; with nothing there the engine waits (rules R356, R394). -/
def nextTransition (s : State) : Host.Outcome State Fault Refusal :=
  match s.host with
  | .reset :: ms => .next (resetTransition { s with host := ms })
  | .take :: ms => .next (takeResponse { s with host := ms })
  | _ => receive s

/-- `s` with the words of one command placed first on the channel and the decoder idle, so that the next step takes
exactly that command. -/
def placeCommand (ws : List Word) (s : State) : State := { s with dec := [], host := sendWords ws ++ s.host }

end Sys2Proof.Machine
end

