-- ==== Sys2Proof/Machine/Step.lean ====
section
/-! DEFINITION. One step of the machine, and a table word placed where the next step takes it. -/

namespace Sys2Proof.Machine

/-- One step: one whole command, or one host move that is no command word, or a wait (log 2, DESIGN CHOICE). -/
def step (s : State) : Host.Outcome State Fault Refusal := nextTransition s

/-- `s` with the instruction whose bits are `w` (numbered as spec/opcode_table.json numbers them) next on the command
channel. -/
def State.withFetchWord (s : State) (nbits w : Nat) : State := placeCommand (commandWords nbits w) s

end Sys2Proof.Machine
end

