-- ==== Sys2Proof/Machine/Assembler.lean ====
section
/-! DEFINITION. The assembler syntax of rule R93: the lines it has, the commands each stands for, the pseudo-instructions'
expansions, and the reading of a line from its characters. It runs before the engine and touches no state of it. How a
text is read where rule R93 is silent is the model's choice (log 18, DESIGN CHOICE). -/

namespace Sys2Proof.Machine

/-- A line of the syntax of rule R93, its operands already numbers. -/
inductive AsmLine where
  | cfg (rows cols width : Nat) (strat : BitVec 2) (lane workers : Nat)
  | fill (row chunk : Int) (value : Nat)
  | rdbit (row col : Int)
  | step
  | stat
  | stepn (n : Nat)
  | fillrow (row : Int) (value : Nat)
  | clear
deriving DecidableEq, Repr

/-- The grid the latest CFG line describes: FILL's payload and the pseudo-instructions depend on it. -/
structure AsmGrid where
  rows : Nat
  cols : Nat
  width : Nat
deriving DecidableEq, Repr

/-- A power of two between 8 and `top` (rules R3, R7). -/
def isWidth (n top : Nat) : Bool := n == 2 ^ Nat.log2 n && 8 ≤ n && n ≤ top

/-- A coordinate operand as its 32-bit field (rule R82), none where it does not fit. -/
def coordField (x : Int) : Option (BitVec 32) :=
  if -2 ^ 31 ≤ x ∧ x < 2 ^ 31 then some (BitVec.ofInt 32 x) else none

/-- The CFG command of a line; an operand that is not a legal value is an assembly error. -/
def asmCfg (rows cols width : Nat) (strat : BitVec 2) (lane workers : Nat) : Option Instr :=
  if isWidth width 512 && isWidth lane width && 1 ≤ workers && workers ≤ 65536 && 1 ≤ rows && rows < 2 ^ 32
      && 1 ≤ cols && cols < 2 ^ 32 then
    some (.cfg strat (BitVec.ofNat 4 (Nat.log2 width)) (BitVec.ofNat 4 (Nat.log2 lane)) (BitVec.ofNat 16 (workers - 1))
      (BitVec.ofNat 32 rows) (BitVec.ofNat 32 cols) ⟨0, 0, 0⟩ [])
  else none

/-- The FILL command of a line: LEN = NP and the payload from the value, which must fit W bits (rules R84, R93). -/
def asmFill (g : AsmGrid) (row chunk : Int) (value : Nat) : Option Instr :=
  match coordField row, coordField chunk with
  | some r, some k => if value < 2 ^ g.width then some (.fill r k 0 (wordsOfNat (max 1 (g.width / 64)) value)) else none
  | _, _ => none

/-- FILLROW: one FILL for each chunk k, of (value >> (k*W)) & (2^W - 1) (rule R93). The rule calls the value a C-bit row; a
value of more bits is taken by the same formula, which drops the bits from C up (log 18, DESIGN CHOICE). -/
def asmFillRow (g : AsmGrid) (row : Int) (value : Nat) : Option (List Instr) :=
  (List.range (g.cols / g.width)).mapM fun (k : Nat) => asmFill g row (k : Int) ((value >>> (k * g.width)) % 2 ^ g.width)

/-- The commands of one line on the grid `g`, none for an assembly error (rule R93). -/
def asmExpand (g : AsmGrid) : AsmLine → Option (List Instr)
  | .cfg rows cols width strat lane workers => (asmCfg rows cols width strat lane workers).map ([·])
  | .fill row chunk value => (asmFill g row chunk value).map ([·])
  | .rdbit row col =>
    match coordField row, coordField col with
    | some r, some c => some [.rdbit r c 0 []]
    | _, _ => none
  | .step => some [.step 0 0 []]
  | .stat => some [.stat 0 0 []]
  | .stepn n => some (List.replicate n (.step 0 0 []))
  | .fillrow row value => asmFillRow g row value
  | .clear => ((List.range g.rows).mapM fun (r : Nat) => asmFillRow g (r : Int) 0).map List.flatten

/-- The grid after a line: a CFG line sets it. -/
def asmGrid (g : AsmGrid) : AsmLine → AsmGrid
  | .cfg rows cols width _ _ _ => ⟨rows, cols, width⟩
  | _ => g

/-- The channel words of a program, line by line (rules R80, R93). -/
def assemble (g : AsmGrid) : List AsmLine → Option (List Word)
  | [] => some []
  | l :: ls =>
    match asmExpand g l, assemble (asmGrid g l) ls with
    | some is, some ws => some (is.flatMap encode ++ ws)
    | _, _ => none

/-- The pieces of a text between occurrences of a character. -/
def splitChars (c : Char) : List Char → List (List Char)
  | [] => [[]]
  | x :: xs =>
    match splitChars c xs with
    | [] => [[]]
    | w :: ws => if x = c then [] :: w :: ws else (x :: w) :: ws

/-- A text without the spaces at its ends; no other character is blank (log 18, DESIGN CHOICE). -/
def trimChars (cs : List Char) : List Char :=
  ((cs.dropWhile (· == ' ')).reverse.dropWhile (· == ' ')).reverse

/-- The value of a digit in base 10 or 16. -/
def digitValue (base : Nat) (c : Char) : Option Nat :=
  let n := c.toNat
  let v := if 48 ≤ n ∧ n ≤ 57 then n - 48 else if 65 ≤ n ∧ n ≤ 70 then n - 55 else if 97 ≤ n ∧ n ≤ 102 then n - 87 else base
  if v < base then some v else none

/-- A non-empty run of digits as a number. -/
def readDigits (base : Nat) (cs : List Char) : Option Nat :=
  if cs.isEmpty then none
  else cs.foldl (fun acc c => match acc, digitValue base c with
    | some a, some d => some (a * base + d)
    | _, _ => none) (some 0)

/-- Hexadecimal digits, where one underscore may stand between two digits, as in the line of program P4
(95_test_vectors.md); rule R93 does not speak of separators (log 18, DESIGN CHOICE). -/
def readHex (cs : List Char) : Option Nat :=
  if (splitChars '_' cs).any (·.isEmpty) then none else readDigits 16 (splitChars '_' cs).flatten

/-- A number: decimal, or hexadecimal with prefix 0x (rule R93). -/
def readNat : List Char → Option Nat
  | '0' :: 'x' :: cs => readHex cs
  | cs => readDigits 10 cs

/-- A number that may carry a minus sign, as the coordinates of rule R93's examples do. -/
def readInt : List Char → Option Int
  | '-' :: cs => (readNat cs).map fun n => -(n : Int)
  | cs => (readNat cs).map fun n => (n : Int)

/-- The operand after `key=`, as a number, with no blank beside the equals sign (log 18, DESIGN CHOICE). -/
def readKey (key : List Char) (cs : List Char) : Option Nat :=
  if key.isPrefixOf cs then readNat (cs.drop key.length) else none

/-- The optional operands of CFG in their order, STRAT, L, P, with their defaults csc, W, 1 (rule R93). -/
def readCfgTail (rows cols width : Nat) (ops : List (List Char)) : Option AsmLine :=
  let (strat, ops) : BitVec 2 × List (List Char) :=
    match ops with
    | o :: os =>
      if o = ['S', 'T', 'R', 'A', 'T', '=', 'c', 's', 'c'] then (0, os)
      else if o = ['S', 'T', 'R', 'A', 'T', '=', 'n', 'i', 'b'] then (1, os)
      else (0, ops)
    | [] => (0, [])
  let (lane, ops) : Nat × List (List Char) :=
    match ops with
    | o :: os => match readKey ['L', '='] o with | some l => (l, os) | none => (width, ops)
    | [] => (width, [])
  match ops with
  | [] => some (.cfg rows cols width strat lane 1)
  | [o] => (readKey ['P', '='] o).map (.cfg rows cols width strat lane)
  | _ => none

/-- A line from its mnemonic and its operands (rule R93). -/
def readOperands (mnemonic : List Char) (ops : List (List Char)) : Option AsmLine :=
  if mnemonic = ['C', 'F', 'G'] then
    match ops with
    | r :: c :: w :: more =>
      match readKey ['R', '='] r, readKey ['C', '='] c, readKey ['W', '='] w with
      | some rows, some cols, some width => readCfgTail rows cols width more
      | _, _, _ => none
    | _ => none
  else if mnemonic = ['F', 'I', 'L', 'L'] then
    match ops with
    | [r, k, v] =>
      match readInt r, readInt k, readNat v with
      | some row, some chunk, some value => some (.fill row chunk value)
      | _, _, _ => none
    | _ => none
  else if mnemonic = ['R', 'D', 'B', 'I', 'T'] then
    match ops with
    | [r, c] =>
      match readInt r, readInt c with
      | some row, some col => some (.rdbit row col)
      | _, _ => none
    | _ => none
  else if mnemonic = ['S', 'T', 'E', 'P'] then (if ops = [] then some .step else none)
  else if mnemonic = ['S', 'T', 'A', 'T'] then (if ops = [] then some .stat else none)
  else if mnemonic = ['S', 'T', 'E', 'P', 'N'] then
    match ops with
    | [n] => (readNat n).map .stepn
    | _ => none
  else if mnemonic = ['F', 'I', 'L', 'L', 'R', 'O', 'W'] then
    match ops with
    | [r, v] =>
      match readInt r, readNat v with
      | some row, some value => some (.fillrow row value)
      | _, _ => none
    | _ => none
  else if mnemonic = ['C', 'L', 'E', 'A', 'R'] then (if ops = [] then some .clear else none)
  else none

/-- A line of text: a command, or nothing when only spaces and a comment stand on it; the outer none is an assembly
error (rule R93). Blanks are the space character only, before and after an operand and after the mnemonic (log 18, DESIGN
CHOICE). -/
def readLine (text : List Char) : Option (Option AsmLine) :=
  match trimChars (text.takeWhile (· != ';')) with
  | [] => some none
  | cs =>
    (readOperands (cs.takeWhile (· != ' '))
      (match trimChars (cs.dropWhile (· != ' ')) with
       | [] => []
       | rest => (splitChars ',' rest).map trimChars)).map some

end Sys2Proof.Machine
end

