-- ==== Sys2Proof/Safety.lean ====
section
/-! DEFINITION. What claims speak of: the cells of a generation and Conway's rule on them (rules R53, R284), the legal
states (rules R23, R31, R341), the errors a command has and their precedence (rules R341, R346), what a command leaves
unchanged, and the end of a run (rule R393). -/

namespace Sys2Proof.Machine

/-- The generation in the current buffer, cell by cell, coordinates wrapped (rules R53, R284). -/
def grid (s : State) : Int → Int → Bool := cell s s.cur

/-- n(row, col): the live cells among the eight offsets, each counted once (rules R167, R284). -/
def liveNeighbors (g : Int → Int → Bool) (row col : Int) : Nat :=
  offsets.countP fun d => g (row + d.2.toInt) (col + d.1.toInt)

/-- One generation of Conway's rule on a plane of cells (rules R234, R284). -/
def life (g : Int → Int → Bool) : Int → Int → Bool := fun row col => b3s23 (liveNeighbors g row col) (g row col)

/-- K generations of Conway's rule (rule R286). -/
def lifeTimes : Nat → (Int → Int → Bool) → Int → Int → Bool
  | 0, g => g
  | k + 1, g => lifeTimes k (life g)

/-- K consecutive STEP commands (rule R286). -/
def generations : Nat → State → Host.Outcome State Fault Refusal
  | 0, s => .next s
  | k + 1, s =>
    match exec (.step 0 0 []) s with
    | .next t => generations k t
    | .fault r => .fault r
    | .refused r => .refused r

/-- Consecutive commands, each executed in the state the one before it left (rule R60). -/
def execAll : List Instr → State → Host.Outcome State Fault Refusal
  | [], s => .next s
  | i :: is, s =>
    match exec i s with
    | .next t => execAll is t
    | .fault r => .fault r
    | .refused r => .refused r

/-- The cell bit that a FILL payload holds for column offset j of its chunk (rule R84). -/
def payloadBit (payload : List Word) (j : Nat) : Bool := (payload.getD (j / 64) 0).getLsbD (j % 64)

/-- The elements a FILL stores to: one word under STRAT 0, four under STRAT 1 (rules R130, R131). -/
def fillElements (g : CfgReg) (row chunk : Int) : List Nat :=
  if g.STRAT = 0 then [wrap row g.rows * g.wpr + wrap chunk g.chunks]
  else (List.range 4).map fun q => wrap row g.rows * g.wpr + 4 * wrap chunk g.chunks + q

/-- A CFGREG that a successful CFG can leave (rules R3 to R8, R23). -/
structure CfgReg.Legal (g : CfgReg) : Prop where
  rowsPos : 1 ≤ g.rows
  colsPos : 1 ≤ g.cols
  log2wLow : 3 ≤ g.LOG2W.toNat
  log2wHigh : g.LOG2W.toNat ≤ 9
  strat : g.STRAT = 0 ∨ g.STRAT = 1
  log2lLow : 3 ≤ g.LOG2L.toNat
  log2lHigh : g.LOG2L.toNat ≤ g.LOG2W.toNat
  workersLow : 1 ≤ g.workers
  workersHigh : g.workers ≤ 65536
  multiple : g.cols % g.W = 0

/-- A stored word fits W bits, and under STRAT 1 only bit 0 of a slot may be set (rules R31, R12). -/
abbrev storedLegal (g : CfgReg) (v : GridWord) : Prop :=
  v.toNat < 2 ^ g.W ∧ (g.STRAT = 1 → ∀ i < 512, v.getLsbD i = true → i % 4 = 0)

/-- A buffer lists elements of the grid only, each a legal word (rules R28, R31). -/
abbrev bufferLegal (g : CfgReg) (m : Memory) : Prop := ∀ e ∈ m, e.1 < g.elements ∧ storedLegal g e.2

/-- The legal states: what every step keeps, from reset on. -/
structure State.Inv (s : State) : Prop where
  /-- Both buffers are in canonical form. -/
  sorted : ∀ b, Memory.wf (s.buf b)
  /-- CAUSE holds no reserved code (rule R341, 93 X6). -/
  causeKnown : s.cause.toNat ≤ 8
  /-- CAUSE is NONE exactly while no error has been raised (rules R341, R345). -/
  causeNone : s.fatal = false ↔ s.cause = 0
  /-- DEC holds less than a whole command (rule R85). -/
  decPartial : splitCommand s.dec = none
  /-- Before construction nothing is written and CUR is 0 (rules R30, R32). -/
  unconfigured : s.cfgd = false → s.cur = false ∧ s.buf0 = [] ∧ s.buf1 = []
  /-- After construction CFGREG is legal (rule R23) and fits the instance (rule R124). -/
  configured : s.cfgd = true → s.cfgreg.Legal ∧ 2 * s.cfgreg.rows * s.cfgreg.cols * s.cfgreg.s ≤ s.capacity
  /-- Every written word is a word of the grid, its nibble slots holding 0 or 1 (rules R28, R31). -/
  stored : s.cfgd = true → ∀ b, bufferLegal s.cfgreg (s.buf b)

/-- A constructed engine in no fatal state: what FILL, RDBIT and STEP need (rule R344 and the CFGD checks). -/
structure State.Ready (s : State) : Prop where
  configured : s.cfgd = true
  notFatal : s.fatal = false

/-- The classes of error a command can have, in the order of precedence of rule R346. -/
inductive ErrorClass where
  | illegalOpcode
  | reservedHeader
  | configuration
  | badLength
  | reservedPayload
  | badParam
  | dimNotMultiple
  | allocFail
deriving DecidableEq, Repr

/-- The order of rule R346. -/
def errorOrder : List ErrorClass :=
  [.illegalOpcode, .reservedHeader, .configuration, .badLength, .reservedPayload, .badParam, .dimNotMultiple, .allocFail]

/-- Whether a command, with H0, H1 and first payload word P_0, has an error of a class, by the bit numbers of rules R83,
R89, R90 and the table of rule R341, each class on its own. -/
def hasError (h0 h1 p0 : Word) (s : State) : ErrorClass → Bool
  | .illegalOpcode => !(1 ≤ h0.toNat % 256 && h0.toNat % 256 ≤ 5)
  | .reservedHeader =>
    if h0.toNat % 256 = 1 then
      h0.toNat / 2 ^ 18 % 4 != 0 || h0.toNat / 2 ^ 28 % 16 != 0 || h0.toNat / 2 ^ 48 != 0
    else h0.toNat / 2 ^ 16 != 0 || (4 ≤ h0.toNat % 256 && h1 != 0)
  | .configuration =>
    if h0.toNat % 256 = 1 then s.cfgd else h0.toNat % 256 != 5 && !s.cfgd
  | .badLength =>
    if h0.toNat % 256 = 2 then h0.toNat / 2 ^ 8 % 256 != max 1 (2 ^ s.cfgreg.LOG2W.toNat / 64)
    else h0.toNat / 2 ^ 8 % 256 != 0
  | .reservedPayload =>
    h0.toNat % 256 = 2 && 2 ^ s.cfgreg.LOG2W.toNat < 64
      && p0.toNat / 2 ^ 2 ^ s.cfgreg.LOG2W.toNat != 0
  | .badParam =>
    h0.toNat % 256 = 1 &&
      (1 < h0.toNat / 2 ^ 16 % 4 || h0.toNat / 2 ^ 20 % 16 < 3 || 9 < h0.toNat / 2 ^ 20 % 16
        || h0.toNat / 2 ^ 24 % 16 < 3 || h0.toNat / 2 ^ 20 % 16 < h0.toNat / 2 ^ 24 % 16
        || h1.toNat % 2 ^ 32 = 0 || h1.toNat / 2 ^ 32 = 0)
  | .dimNotMultiple =>
    h0.toNat % 256 = 1 && h1.toNat / 2 ^ 32 % 2 ^ (h0.toNat / 2 ^ 20 % 16) != 0
  | .allocFail =>
    h0.toNat % 256 = 1 &&
      s.capacity < 2 * (h1.toNat % 2 ^ 32) * (h1.toNat / 2 ^ 32) * (if h0.toNat / 2 ^ 16 % 4 = 0 then 1 else 4)

/-- The cause code a class reports (rule R341); a configuration error of CFG is 0x04, of the others 0x05. -/
def classCode (h0 : Word) : ErrorClass → BitVec 8
  | .illegalOpcode => 0x06
  | .reservedHeader => 0x07
  | .configuration => if h0.toNat % 256 = 1 then 0x04 else 0x05
  | .badLength => 0x08
  | .reservedPayload => 0x07
  | .badParam => 0x03
  | .dimNotMultiple => 0x01
  | .allocFail => 0x02

/-- The first error of a command by rule R346, none where it has no error. -/
def firstError (h0 h1 p0 : Word) (s : State) : Option ErrorClass := errorOrder.find? (hasError h0 h1 p0 s)

/-- The end of a run (rule R393): every move of the host has been seen, the decoder is idle, and no UNINIT_READ has been
recorded (rule R350). -/
structure State.RunEnded (s : State) : Prop where
  consumed : s.host = []
  idle : s.dec = []
  noUninit : s.uninitRead = false

/-- Two states yield the same at the end of a run (rule R393): the response words since the reset that began it, whether or
not the host has taken them, CFGD, FATAL, CAUSE and CUR, and the cells of the current generation once configured. -/
structure SameYield (s t : State) : Prop where
  responses : s.responses = t.responses
  cfgd : s.cfgd = t.cfgd
  fatal : s.fatal = t.fatal
  cause : s.cause = t.cause
  cur : s.cur = t.cur
  cells : s.cfgd = true → ∀ row col, grid s row col = grid t row col

end Sys2Proof.Machine
end

