-- ==== Sys2Proof/Certificates/Slice0/Obligations.lean ====
section
/-! DEFINITION. The statements for the provers, from the numbered rules of spec/. A state t answered by a command is
`Host.Outcome.next t`; `State.Ready` is a constructed engine in no fatal state; `State.Inv` is the invariant of the legal
states, itself a statement. -/

open Sys2Proof Sys2Proof.Machine

/-! ## Encoding -/

/-- Rules R80, R81, R83, R85: decoding the words of any well-formed command, whatever follows them, gives the command
back with every operand and every reserved field, and leaves what follows. -/
def Obligations.DecodeOfEncodeIsTheCommand : Prop :=
  ∀ (i : Instr) (rest : List Word), i.wellFormed = true → decode (encode i ++ rest) = .ok (i, rest)

/-- Rules R80, R83, R86: whatever the decoder hands over, its words are the ones the encoder writes, so no bit of an
accepted command is dropped and no two commands have the same words. -/
def Obligations.EncodeOfDecodeIsTheWords : Prop :=
  ∀ (ws rest : List Word) (i : Instr), decode ws = .ok (i, rest) → ws = encode i ++ rest ∧ i.wellFormed = true

/-- 30_encoding.md section 7 and the vectors V-ENC-1, 3, 4, 6, 8, 9: words written out from the spec decode to the
commands they stand for. -/
def Obligations.SpecWordsDecodeAsTheSpecSays : Prop :=
  decodeTableWord 128 (0x0000000800000005 * 2 ^ 64 + 0x0000000003300001) =
      some (.cfg 0 3 3 0 5 8 ⟨0, 0, 0⟩ []) ∧
  decodeTableWord 128 (0x0000001000000004 * 2 ^ 64 + 0x0000000004410001) =
      some (.cfg 1 4 4 0 4 16 ⟨0, 0, 0⟩ []) ∧
  decodeTableWord 192 (0x0000000000000008 * 2 ^ 128 + 0x0000000000000001 * 2 ^ 64 + 0x0000000000000102) =
      some (.fill 1 0 0 [8]) ∧
  decodeTableWord 128 (0xFFFFFFFFFFFFFFFF * 2 ^ 64 + 0x0000000000000003) =
      some (.rdbit 0xFFFFFFFF 0xFFFFFFFF 0 []) ∧
  decodeTableWord 128 0x0000000000000004 = some (.step 0 0 []) ∧
  decodeTableWord 128 0x0000000000000005 = some (.stat 0 0 []) ∧
  decodeTableWord 128 0 = none

/-- Rule R55: a byte-wide transport carries each 64-bit word in eight bytes, least significant byte first, and the words
come back from their bytes. -/
def Obligations.ByteTransportIsLittleEndian : Prop :=
  (∀ ws : List Word, bytesToWords (wordsToBytes ws) = (ws, [])) ∧
  ∀ (w : Word) (k : Nat), k < 8 → (wordToBytes w)[k]? = some (w.extractLsb' (8 * k) 8)

/-! ## The command channel and the step -/

/-- Rules R1, R85: when the words at the head of the channel, after those DEC holds, are one whole command that decodes
to `i`, the step executes exactly `i`, with DEC idle and those words taken off the channel. -/
def Obligations.StepExecutesTheDecodedCommand : Prop :=
  ∀ (s : State) (w : Word) (ws : List Word) (ms : List HostMove) (i : Instr),
    s.host = sendWords (w :: ws) ++ ms → decode (s.dec ++ (w :: ws)) = .ok (i, []) →
      step s = exec i { s with dec := [], host := ms }

/-- Rules R88, R85, R345: a command whose opcode is none of 0x01 .. 0x05, its first words in DEC already or all of it on the
channel, is consumed as 2 + LEN words and performs nothing else but to raise Fatal(ILLEGAL_OPCODE), which changes nothing
when the engine is fatal already. -/
def Obligations.IllegalOpcodeIsConsumedAndFatal : Prop :=
  ∀ (s : State) (w h0 h1 : Word) (ws payload : List Word) (ms : List HostMove),
    s.host = sendWords (w :: ws) ++ ms → s.dec ++ (w :: ws) = h0 :: h1 :: payload →
    payload.length = lenField h0 → (h0.toNat % 256 = 0 ∨ 5 < h0.toNat % 256) →
      step s = .next (if s.fatal = true then { s with dec := [], host := ms }
        else { s with dec := [], host := ms, fatal := true, cause := 0x06 })

/-- Rules R85, R356 and 93 H2 say that the decoder waits for the rest of a command and that a partial command has no
effect. That one step moves all the leading words of the channel into DEC, and that a step with nothing to take answers
the same state, is the model's choice (log 2, DESIGN CHOICE): one word a step would fit the rules as well. While the
words received do not make a whole command, the step only moves them into DEC; with nothing on the channel and DEC not
yet a whole command the engine holds its state. -/
def Obligations.PartialCommandOnlyWaits : Prop :=
  (∀ (s : State) (w : Word) (ws : List Word) (ms : List HostMove),
    s.host = sendWords (w :: ws) ++ ms → (leadingWords ms).1 = [] → splitCommand (s.dec ++ (w :: ws)) = none →
      step s = .next { s with dec := s.dec ++ (w :: ws), host := ms }) ∧
  ∀ s : State, s.host = [] → splitCommand s.dec = none → step s = .next s

/-- Every step of every state answers a next state, never a fault and never a refusal. Rules R285 and R392 say that a STEP
is total and that every command completes. For the rest the statement rests on the model's choices: a wait, and a host
move that is no command word, is a step that answers a state (log 2, DESIGN CHOICE); UNINIT_READ (R350) is recorded and
is no fault of the step, the machine going on with a free word (log 5, DESIGN CHOICE, safe); and a take from an empty
RSPQ is passed with no effect (log 11, DESIGN CHOICE, unsafe). -/
def Obligations.EveryStepAnswersANextState : Prop := ∀ s : State, ∃ t, step s = .next t

/-- Rules R20, R60: a command touches neither the host's further moves, nor the decoder, nor the responses the host has
taken, nor the instance's parameter. -/
def Obligations.CommandsLeaveTheChannelAlone : Prop :=
  ∀ (i : Instr) (s t : State), exec i s = .next t →
    t.host = s.host ∧ t.dec = s.dec ∧ t.taken = s.taken ∧ t.capacity = s.capacity

/-- Rules R385, R394: taking a response moves the oldest response word from RSPQ to the words the host has taken and
changes nothing else, so the sequence of response words (rule R393) stays as it was. -/
def Obligations.TakingAResponseRemovesTheOldest : Prop :=
  ∀ (s : State) (v : Word) (vs : List Word) (ms : List HostMove),
    s.host = .take :: ms → s.rspq = v :: vs →
      ∃ t, step s = .next t ∧ t = { s with host := ms, rspq := vs, taken := s.taken ++ [v] } ∧ t.responses = s.responses

/-- Rule R393: what a run yields says nothing of whether the host has read the response words yet. From every legal state
the host's moves, and the same moves without any take, are both seen to the end, and the two states then yield the same:
the same response words in order, the same CFGD, FATAL, CAUSE and CUR, the same cells; the decoder holds the same, and
the one run has ended exactly when the other has. That a take from an empty RSPQ does nothing is the model's choice (log
11, DESIGN CHOICE), and that the words taken are kept is read from the rule (log 20, DEDUCED). -/
def Obligations.TakingResponsesDoesNotChangeTheYield : Prop :=
  ∀ s : State, s.Inv → ∃ k t k' t',
    Sys2Proof.core.run k s = .next t ∧ t.host = [] ∧
    Sys2Proof.core.run k' { s with host := s.host.filter (· != .take) } = .next t' ∧ t'.host = [] ∧
    SameYield t t' ∧ t.dec = t'.dec ∧ (t.RunEnded ↔ t'.RunEnded)

/-- Rules R1, R392, R393: a finite stream ends. From every legal state the host's moves are all seen within as many steps
as there are moves; then the engine waits, and where it ended between commands with no UNINIT_READ, the run has ended.
That a step consumes one command or one other move and that a wait is a step that answers the same state (log 2, DESIGN
CHOICE), and that a take from an empty RSPQ is passed with no effect (log 11, DESIGN CHOICE, unsafe), are the model's
choices. -/
def Obligations.FiniteStreamsEnd : Prop :=
  ∀ s : State, s.Inv → ∃ k t, k ≤ s.host.length ∧ Sys2Proof.core.run k s = .next t ∧ t.host = [] ∧
    step t = .next t ∧ (t.dec = [] → t.uninitRead = false → t.RunEnded)

/-! ## Reset -/

/-- Rules R32, R380: the reset input sets CFGD, FATAL, CAUSE and CUR to 0, makes DEC idle, empties RSPQ and leaves nothing
WRITTEN, in every state, the fatal one included. A new run begins, which has yielded no response yet (rule R393, log
20). -/
def Obligations.ResetInputSetsTheResetState : Prop :=
  ∀ (s : State) (ms : List HostMove), s.host = .reset :: ms →
    ∃ t, step s = .next t ∧ t.cfgd = false ∧ t.fatal = false ∧ t.cause = 0x00 ∧ t.cur = false ∧ t.dec = [] ∧
      t.rspq = [] ∧ t.taken = [] ∧ (∀ b i, t.written b i = false) ∧ t.host = ms

/-- Rule R32: the state after reset, for every instance, before any move of the host; the run it begins has yielded no
response yet (rule R393, log 20). -/
def Obligations.ResetStateIsTheSpecs : Prop :=
  ∀ capacity : Nat, let s := State.resetWith capacity
    s.cfgd = false ∧ s.fatal = false ∧ s.cause = 0x00 ∧ s.cur = false ∧ (∀ b i, s.written b i = false) ∧
      s.dec = [] ∧ s.rspq = [] ∧ s.taken = []

/-! ## Errors and the fatal state -/

/-- Rule R346: a command of an engine not yet fatal reports the first error that applies in the order of the rule, and
only that one, with its cause code of rule R341; where none applies it raises nothing. The errors are read off the
command's words by the bit numbers of the spec. Across commands the earliest cause is kept. -/
def Obligations.FirstErrorByPrecedenceIsReported : Prop :=
  ∀ (s : State) (h0 h1 : Word) (payload : List Word), payload.length = lenField h0 →
    ∃ t, runCommand h0 h1 payload s = .next t ∧
      (s.fatal = false → s.cause = 0 →
        (∀ e, firstError h0 h1 (payload.headD 0) s = some e → t.fatal = true ∧ t.cause = classCode h0 e) ∧
        (firstError h0 h1 (payload.headD 0) s = none → t.fatal = false ∧ t.cause = 0)) ∧
      (s.fatal = true → t.fatal = true ∧ t.cause = s.cause)

/-- Rule R345: raising Fatal(cause) sets FATAL and CAUSE when no error was raised before, and changes nothing when one
was, so the first cause is kept. A command that raises an error writes no CFGREG field, no buffer word, no WRITTEN entry
and not CUR or CFGD: beyond FATAL and CAUSE only a RDBIT's error word or a STAT's STATUS appears. -/
def Obligations.FailingCommandHasNoOtherEffect : Prop :=
  (∀ (c : Cause) (s : State), raiseFatal c s = if s.fatal = true then s else { s with fatal := true, cause := c.code }) ∧
  ∀ (s t : State) (i : Instr), s.fatal = false → exec i s = .next t → t.fatal = true →
    t = { s with fatal := true, cause := t.cause,
                 rspq := match i with
                   | .rdbit _ _ _ _ => s.rspq ++ [0x8000000000000000]
                   | .stat _ _ _ => s.rspq ++ [statusWord t]
                   | .cfg _ _ _ _ _ _ _ _ => s.rspq
                   | .fill _ _ _ _ => s.rspq
                   | .step _ _ _ => s.rspq }

/-- Rule R344: the gate. An illegal opcode raises ILLEGAL_OPCODE when the engine is not fatal and does nothing else, with
no response. A fatal engine executes nothing: RDBIT responds the error word, STAT responds STATUS, CFG, FILL and STEP do
nothing. Otherwise the command is executed by its own meaning, and FILL, RDBIT and STEP check CFGD themselves: with no
reserved bit set they fail with NOT_CONFIGURED while CFGD is 0. -/
def Obligations.GateDecidesWhatRuns : Prop :=
  ∀ (s : State) (h0 h1 : Word) (payload : List Word),
    if h0.toNat % 256 = 0 ∨ 5 < h0.toNat % 256 then
      runCommand h0 h1 payload s = .next (if s.fatal = true then s else { s with fatal := true, cause := 0x06 })
    else if s.fatal = true then
      runCommand h0 h1 payload s =
        .next (if h0.toNat % 256 = 3 then { s with rspq := s.rspq ++ [0x8000000000000000] }
          else if h0.toNat % 256 = 5 then { s with rspq := s.rspq ++ [statusWord s] } else s)
    else ∃ i, decodeFields h0 h1 payload = .ok i ∧ runCommand h0 h1 payload s = exec i s ∧
      (s.cfgd = false → 2 ≤ h0.toNat % 256 → h0.toNat % 256 ≤ 4 → h0.toNat / 2 ^ 16 = 0 → (h0.toNat % 256 = 4 → h1 = 0) →
        ∃ t, exec i s = .next t ∧ t.fatal = true ∧ t.cause = 0x05)

/-- Rule R348: there is no return from the fatal state except reset, and CAUSE keeps the first cause. -/
def Obligations.OnlyResetLeavesTheFatalState : Prop :=
  ∀ s t : State, s.fatal = true → step s = .next t →
    (t.fatal = true ∧ t.cause = s.cause) ∨ (∃ ms, s.host = .reset :: ms) ∧ t.fatal = false ∧ t.cause = 0x00

/-- Rules R342, R343: DIM_NOT_MULTIPLE and ALLOC_FAIL are raised only by CFG, never by a later command. -/
def Obligations.ConstructionErrorsComeFromCfgOnly : Prop :=
  ∀ (s t : State) (i : Instr), exec i s = .next t → s.fatal = false → t.fatal = true →
    (t.cause = 0x01 ∨ t.cause = 0x02) →
      ∃ strat log2w log2l pm1 rows cols rsv p, i = .cfg strat log2w log2l pm1 rows cols rsv p

/-- Rule R382: in the state after reset FILL, RDBIT and STEP with no reserved bit set fail with NOT_CONFIGURED, whatever
their operands and LEN; RDBIT then responds the error word (R87). -/
def Obligations.UnconfiguredCommandsFail : Prop :=
  ∀ (s : State) (a b : BitVec 32) (p : List Word), s.cfgd = false → s.fatal = false →
    exec (.fill a b 0 p) s = .next { s with fatal := true, cause := 0x05 } ∧
    exec (.rdbit a b 0 p) s =
      .next { s with fatal := true, cause := 0x05, rspq := s.rspq ++ [0x8000000000000000] } ∧
    exec (.step 0 0 p) s = .next { s with fatal := true, cause := 0x05 }

/-! ## Construction -/

/-- Rules R3 to R8, R120, R123, R124: a CFG with legal fields, C a multiple of W and enough storage constructs the engine:
CFGREG takes its fields, with P = PM1 + 1, CFGD becomes 1, CUR 0, nothing is WRITTEN, and all else stays. -/
def Obligations.CfgConstructsTheEngine : Prop :=
  ∀ (s : State) (strat : BitVec 2) (log2w log2l : BitVec 4) (pm1 : BitVec 16) (rows cols : BitVec 32),
    s.fatal = false → s.cfgd = false → strat.toNat ≤ 1 → 3 ≤ log2w.toNat → log2w.toNat ≤ 9 → 3 ≤ log2l.toNat →
    log2l.toNat ≤ log2w.toNat → 1 ≤ rows.toNat → 1 ≤ cols.toNat → cols.toNat % 2 ^ log2w.toNat = 0 →
    2 * rows.toNat * cols.toNat * (if strat = 0 then 1 else 4) ≤ s.capacity →
    ∃ t, exec (.cfg strat log2w log2l pm1 rows cols ⟨0, 0, 0⟩ []) s = .next t ∧
      t.cfgreg.rows = rows.toNat ∧ t.cfgreg.cols = cols.toNat ∧ t.cfgreg.W = 2 ^ log2w.toNat ∧
      t.cfgreg.L = 2 ^ log2l.toNat ∧ t.cfgreg.STRAT = strat ∧ t.cfgreg.workers = pm1.toNat + 1 ∧
      t.cfgd = true ∧ t.cur = false ∧ (∀ b i, t.written b i = false) ∧
      t.fatal = false ∧ t.cause = s.cause ∧ t.rspq = s.rspq ∧ t.taken = s.taken ∧ t.uninitRead = s.uninitRead

/-- Rule R121: construction is once per reset. A second CFG fails with ALREADY_CONFIGURED, and no step but a reset changes
CFGD or any CFGREG field of a constructed engine (R23). -/
def Obligations.ConstructionIsOncePerReset : Prop :=
  (∀ (s : State) (strat : BitVec 2) (log2w log2l : BitVec 4) (pm1 : BitVec 16) (rows cols : BitVec 32) (p : List Word),
    s.cfgd = true → s.fatal = false →
      exec (.cfg strat log2w log2l pm1 rows cols ⟨0, 0, 0⟩ p) s = .next { s with fatal := true, cause := 0x04 }) ∧
  ∀ s t : State, s.cfgd = true → step s = .next t →
    (t.cfgd = true ∧ t.cfgreg = s.cfgreg) ∨ ∃ ms, s.host = .reset :: ms

/-- Rules R120, R345: the frame of CFG. It touches only CFGD, CFGREG, CUR, FATAL, CAUSE and the buffers (whose contents it
leaves unspecified, R32), and the buffers only when it constructs. -/
def Obligations.CfgFrame : Prop :=
  ∀ (s t : State) (strat : BitVec 2) (log2w log2l : BitVec 4) (pm1 : BitVec 16) (rows cols : BitVec 32)
    (rsv : CfgReserved) (p : List Word), exec (.cfg strat log2w log2l pm1 rows cols rsv p) s = .next t →
    t.rspq = s.rspq ∧ t.taken = s.taken ∧ t.uninitRead = s.uninitRead ∧ t.dec = s.dec ∧ t.host = s.host ∧
    t.capacity = s.capacity ∧
    (t.fatal = s.fatal → t.cause = s.cause) ∧
    ((t.cfgd = s.cfgd ∧ t.cfgreg = s.cfgreg ∧ t.cur = s.cur ∧
        ∀ b i, (t.buf b).read i = (s.buf b).read i ∧ t.gread b i = s.gread b i) ∨
      (s.cfgd = false ∧ t.cfgd = true ∧ t.cur = false ∧ t.fatal = s.fatal ∧ t.cause = s.cause ∧
        ∀ b i, (t.buf b).read i = none))

/-! ## GridStore -/

/-- Rule R54: there is no out-of-range coordinate; coordinates congruent modulo R and modulo C name the same cell. -/
def Obligations.CongruentCoordinatesNameOneCell : Prop :=
  ∀ (s : State) (b : Bool) (row col a e : Int),
    cell s b (row + a * s.cfgreg.rows) (col + e * s.cfgreg.cols) = cell s b row col

/-- Rules R51, R52: in a legal configuration CellAddr stays inside the buffer and inside the word, and two cells have the
same address only when they are the same cell of the torus. -/
def Obligations.CellAddrIsInRangeAndInjective : Prop :=
  ∀ g : CfgReg, g.Legal → ∀ row col row' col' : Int,
    (cellAddr g row col).1 < g.elements ∧ (cellAddr g row col).2 < g.W ∧
    (cellAddr g row col = cellAddr g row' col' → row % g.rows = row' % g.rows ∧ col % g.cols = col' % g.cols)

/-- Rules R84, R130, R131: a FILL of a ready engine with the right LEN and no reserved payload bit sets exactly the W cells
of its chunk, under both strategies: cell (r, c) with r in the reduced row and c in the reduced chunk takes payload bit
c mod W, every other cell of the current generation keeps its value, and the other buffer is untouched. The elements it
stores to become WRITTEN, and no other (R30). -/
def Obligations.FillSetsTheCellsOfItsChunk : Prop :=
  ∀ (s : State) (row chunk : BitVec 32) (p : List Word), s.Inv → s.Ready → p.length = max 1 (s.cfgreg.W / 64) →
    (s.cfgreg.W < 64 → (p.headD 0).toNat < 2 ^ s.cfgreg.W) →
    ∃ t, exec (.fill row chunk 0 p) s = .next t ∧ t.fatal = false ∧ t.cur = s.cur ∧ t.cfgreg = s.cfgreg ∧
      t.buf (!s.cur) = s.buf (!s.cur) ∧
      (∀ i, t.written s.cur i = true ↔ i ∈ fillElements s.cfgreg row.toInt chunk.toInt ∨ s.written s.cur i = true) ∧
      ∀ r c : Int, grid t r c =
        if r % s.cfgreg.rows = row.toInt % s.cfgreg.rows ∧
            c % s.cfgreg.cols / s.cfgreg.W = chunk.toInt % ((s.cfgreg.cols / s.cfgreg.W : Nat) : Int) then
          payloadBit p (c % s.cfgreg.cols % s.cfgreg.W).toNat
        else grid s r c

/-- Rules R130, R131, R345: the frame of FILL. Whatever its operands, every field but FATAL, CAUSE and the current buffer
is unchanged, and every element outside the ones it stores to (one, or four under STRAT 1) reads as before. -/
def Obligations.FillFrame : Prop :=
  ∀ (s t : State) (row chunk : BitVec 32) (rsv : BitVec 48) (p : List Word), exec (.fill row chunk rsv p) s = .next t →
    t.cfgd = s.cfgd ∧ t.cfgreg = s.cfgreg ∧ t.cur = s.cur ∧ t.dec = s.dec ∧ t.rspq = s.rspq ∧
    t.taken = s.taken ∧ t.uninitRead = s.uninitRead ∧ t.epoch = s.epoch ∧ t.capacity = s.capacity ∧ t.host = s.host ∧
    (t.fatal = s.fatal → t.cause = s.cause) ∧
    ∀ b i, (b = s.cur → i ∉ fillElements s.cfgreg row.toInt chunk.toInt) →
      (t.buf b).read i = (s.buf b).read i ∧ t.gread b i = s.gread b i

/-- Rule R383, step (3) of the boot sequence, and R130: on a legal ready engine, FILLs with the right LEN and no reserved
payload bit that between them meet every (row, chunk) pair, in any order and with repetitions, complete and leave the
engine legal, ready and seeded, with no new UNINIT_READ. -/
def Obligations.SeedingFillsWriteEveryWord : Prop :=
  ∀ (s : State) (fills : List (BitVec 32 × BitVec 32 × List Word)), s.Inv → s.Ready →
    (∀ f ∈ fills, f.2.2.length = max 1 (s.cfgreg.W / 64) ∧
      (s.cfgreg.W < 64 → (f.2.2.headD 0).toNat < 2 ^ s.cfgreg.W)) →
    (∀ r k, r < s.cfgreg.rows → k < s.cfgreg.cols / s.cfgreg.W →
      ∃ f ∈ fills, f.1.toInt % s.cfgreg.rows = r ∧ f.2.1.toInt % ((s.cfgreg.cols / s.cfgreg.W : Nat) : Int) = k) →
    ∃ t, execAll (fills.map fun f => .fill f.1 f.2.1 0 f.2.2) s = .next t ∧ t.Inv ∧ t.Ready ∧ t.seeded = true ∧
      t.cur = s.cur ∧ t.cfgreg = s.cfgreg ∧ t.uninitRead = s.uninitRead

/-- Rules R87, R135, R136: a RDBIT of a ready engine, at any coordinates, responds the value of the cell at them and
changes nothing else, when the word that holds it has been written. -/
def Obligations.RdbitRespondsTheCell : Prop :=
  ∀ (s : State) (row col : BitVec 32), s.Ready →
    s.written s.cur (cellAddr s.cfgreg row.toInt col.toInt).1 = true →
    exec (.rdbit row col 0 []) s =
      .next { s with rspq := s.rspq ++ [if grid s row.toInt col.toInt = true then 1 else 0] }

/-- Rule R87: RDBIT and STAT append exactly one response word, every other command, the illegal ones included, appends
none. The word of a RDBIT is the error word when the engine is fatal after it, and the cell's value otherwise; the word
of a STAT is STATUS as the STAT leaves it. -/
def Obligations.ResponsesAreOneWordPerReadingCommand : Prop :=
  ∀ (s t : State) (h0 h1 : Word) (payload : List Word), runCommand h0 h1 payload s = .next t →
    if h0.toNat % 256 = 3 then
      t.rspq = s.rspq ++
        [if t.fatal = true then 0x8000000000000000
         else if grid s (h1.extractLsb' 0 32).toInt (h1.extractLsb' 32 32).toInt = true then 1 else 0]
    else if h0.toNat % 256 = 5 then t.rspq = s.rspq ++ [statusWord t]
    else t.rspq = s.rspq

/-- Rules R57, R320, R345: the frame of RDBIT and STAT. Neither touches CFGD, CFGREG, CUR, the decoder or any element of
either buffer, and FATAL and CAUSE only by an error of its own. -/
def Obligations.ReadingCommandsFrame : Prop :=
  ∀ (s t : State) (i : Instr),
    ((∃ row col rsv p, i = .rdbit row col rsv p) ∨ ∃ rsv h1 p, i = .stat rsv h1 p) → exec i s = .next t →
    t.cfgd = s.cfgd ∧ t.cfgreg = s.cfgreg ∧ t.cur = s.cur ∧ t.buf0 = s.buf0 ∧ t.buf1 = s.buf1 ∧ t.dec = s.dec ∧
    t.taken = s.taken ∧ t.epoch = s.epoch ∧ t.capacity = s.capacity ∧ t.host = s.host ∧
    (∀ b j, (t.buf b).read j = (s.buf b).read j ∧ t.gread b j = s.gread b j) ∧
    (t.fatal = s.fatal → t.cause = s.cause)

/-- Rule R350 and log 5 (the model's choice: it records UNINIT_READ and goes on with a free word): a RDBIT of an unwritten
word and a STEP over a buffer with an unwritten word complete, with the record set. -/
def Obligations.UnseededReadsAreRecorded : Prop :=
  (∀ (s : State) (row col : BitVec 32), s.Ready →
    s.written s.cur (cellAddr s.cfgreg row.toInt col.toInt).1 = false →
    ∃ t, exec (.rdbit row col 0 []) s = .next t ∧ t.uninitRead = true ∧ t.rspq.length = s.rspq.length + 1) ∧
  ∀ (s : State) (i : Nat), s.Ready → i < s.cfgreg.elements → s.written s.cur i = false →
    ∃ t, exec (.step 0 0 []) s = .next t ∧ t.uninitRead = true ∧ t.cur = !s.cur

/-- Rule R350: UNINIT_READ, once recorded, is never cleared, by no step; that a reset keeps the record too is the model's
choice (log 13, DESIGN CHOICE), and that it is a field the machine goes on with is log 5 (DESIGN CHOICE, safe). -/
def Obligations.UninitReadIsNeverCleared : Prop :=
  ∀ s t : State, s.uninitRead = true → step s = .next t → t.uninitRead = true

/-! ## Status -/

/-- Rules R24, R320: a STAT of an engine, fatal or not, configured or not, responds STATUS and changes nothing else: bit 0
CFGD, bit 1 FATAL, bit 2 CUR, bits 15:8 CAUSE, all other bits 0. -/
def Obligations.StatRespondsTheStatusBits : Prop :=
  ∀ s : State, ∃ w, exec (.stat 0 0 []) s = .next { s with rspq := s.rspq ++ [w] } ∧
    w.toNat = s.cfgd.toNat + 2 * s.fatal.toNat + 4 * s.cur.toNat + 256 * s.cause.toNat

/-- Rule R321: a STAT has no side effect but in the error case of rule R320, where it is malformed and the engine not yet
fatal; and two STATs with no command between them respond the same word, malformed ones too. -/
def Obligations.TwoStatsRespondTheSame : Prop :=
  ∀ (s : State) (rsv : BitVec 48) (h1 : Word) (p : List Word),
    ∃ t u w, exec (.stat rsv h1 p) s = .next t ∧ exec (.stat rsv h1 p) t = .next u ∧
      t.rspq = s.rspq ++ [w] ∧ u.rspq = s.rspq ++ [w, w] ∧
      t = { s with fatal := t.fatal, cause := t.cause, rspq := t.rspq } ∧
      (s.fatal = true ∨ (rsv = 0 ∧ h1 = 0 ∧ p = []) → t.fatal = s.fatal ∧ t.cause = s.cause) ∧
      u = { t with rspq := u.rspq }

/-! ## The datapath of STEP -/

/-- Rule R161: the contract of the ShiftEngine. In a legal state, slot j of Nbr(dx, dy, r, k) holds the cell at row r + dy
and column k*m + j + dx, both wrapped, and under STRAT 1, the current buffer being seeded (an unwritten word has no
stated bits, R350), the other bits of the slot are 0. It holds for scalar words and for vector lanes. -/
def Obligations.NeighborWordsHoldTheNeighborCells : Prop :=
  ∀ (s : State) (dx dy : Delta) (r k j : Nat), s.Inv → s.cfgd = true →
    r < s.cfgreg.rows → k < s.cfgreg.wpr → j < s.cfgreg.m →
    (nbr s dx dy r k).getLsbD (s.cfgreg.s * j) = grid s (r + dy.toInt) (k * s.cfgreg.m + j + dx.toInt) ∧
    (s.seeded = true → s.cfgreg.s = 4 → ∀ b, 1 ≤ b → b < 4 → (nbr s dx dy r k).getLsbD (4 * j + b) = false)

/-- Rule R171: the vector form computes the same word as the scalar form, for every offset, every word and every lane
width L of at least 8 that divides W, with slots of 1 or 4 bits; so in every legal configuration the lane width changes no
neighbor word. -/
def Obligations.VectorShiftEqualsScalarShift : Prop :=
  (∀ (w l s : Nat) (dx : Delta) (v below above : BitVec w), l ∣ w → 8 ≤ l → (s = 1 ∨ s = 4) →
    shiftVector l s dx v below above = shiftScalar s dx v below above) ∧
  ∀ (g : CfgReg) (dx : Delta) (v below above : BitVec g.W), g.Legal →
    shiftWord g dx v below above = shiftScalar g.s dx v below above

/-- Rule R167: the shift of a word beside itself is a rotation by one slot; and in a legal configuration with one word per
row (wpr = 1) the adjacent word in either direction is the word itself, so Nbr(-1, dy, r, k) and Nbr(+1, dy, r, k) are
the row's word rotated by one slot, scalar or by lanes, for all r, k and dy. -/
def Obligations.OneWordRowsRotate : Prop :=
  (∀ (w s : Nat) (v : BitVec w), s < w →
    shiftScalar s .minus v v v = v.rotateLeft s ∧ shiftScalar s .plus v v v = v.rotateRight s) ∧
  ∀ (s : State) (dy : Delta) (r k : Int), s.cfgreg.Legal → s.cfgreg.wpr = 1 →
    nbr s .minus dy r k = (gword s (r + dy.toInt) k).rotateLeft s.cfgreg.s ∧
    nbr s .plus dy r k = (gword s (r + dy.toInt) k).rotateRight s.cfgreg.s

/-- Rule R204: with n of the eight neighbor words set at bit j, the carry-save planes at bit j are n mod 2, (n div 2) mod 2
and whether n >= 4; so the triple (b4, b2, b1) is n for n in 0 .. 7 and 4 for n = 8. One iteration with a 0 bit changes
nothing there; with a 1 bit it adds 1 to (b2, b1) modulo 4 and sets b4 exactly on the wrap from 3, never clearing it. -/
def Obligations.CarrySavePlanesCountNeighbors : Prop :=
  (∀ (w : Nat) (ns : List (BitVec w)) (j : Nat), ns.length = 8 → j < w →
    let n := ns.countP (·.getLsbD j)
    (csc ns).b1.getLsbD j = decide (n % 2 = 1) ∧ (csc ns).b2.getLsbD j = decide (n / 2 % 2 = 1) ∧
      (csc ns).b4.getLsbD j = decide (4 ≤ n) ∧
      4 * ((csc ns).b4.getLsbD j).toNat + 2 * ((csc ns).b2.getLsbD j).toNat + ((csc ns).b1.getLsbD j).toNat =
        if n = 8 then 4 else n) ∧
  ∀ (w : Nat) (p : Planes w) (v : BitVec w) (j : Nat), j < w →
    let q := foldNeighbor p v
    let low := 2 * (p.b2.getLsbD j).toNat + (p.b1.getLsbD j).toNat
    2 * (q.b2.getLsbD j).toNat + (q.b1.getLsbD j).toNat = (low + (v.getLsbD j).toNat) % 4 ∧
      (q.b4.getLsbD j = true ↔ p.b4.getLsbD j = true ∨ (v.getLsbD j = true ∧ low = 3))

/-- Rule R205: the planes depend only on the count at each bit position, so they are the same for every order in which the
neighbor words are folded and for every assignment of the offsets to the indices. -/
def Obligations.CarrySaveOrderDoesNotMatter : Prop :=
  ∀ (w : Nat) (ns ns' : List (BitVec w)),
    ((∀ j < w, ns.countP (·.getLsbD j) = ns'.countP (·.getLsbD j)) → csc ns = csc ns') ∧ (ns.Perm ns' → csc ns = csc ns')

/-- Rule R254: where every slot of the eight neighbor words holds 0 or 1, the nibble planes at slot t are n mod 2,
(n div 2) mod 2 and (n div 4) mod 2 of the count n of the slot; they equal the carry-save planes but for n = 8, where b4
differs. Every other bit of the planes is 0 (R253). -/
def Obligations.NibblePlanesCountNeighbors : Prop :=
  ∀ (w : Nat) (ns : List (BitVec w)) (i : Nat), ns.length = 8 → w % 4 = 0 → i < w →
    (∀ v ∈ ns, ∀ b, v.getLsbD b = true → b % 4 = 0) →
    let n := ns.countP (·.getLsbD i)
    if i % 4 = 0 then
      (nib ns).b1.getLsbD i = decide (n % 2 = 1) ∧ (nib ns).b2.getLsbD i = decide (n / 2 % 2 = 1) ∧
        (nib ns).b4.getLsbD i = decide (n / 4 % 2 = 1) ∧
        (nib ns).b1.getLsbD i = (csc ns).b1.getLsbD i ∧ (nib ns).b2.getLsbD i = (csc ns).b2.getLsbD i ∧
        ((nib ns).b4.getLsbD i = (csc ns).b4.getLsbD i ↔ n ≠ 8)
    else (nib ns).b1.getLsbD i = false ∧ (nib ns).b2.getLsbD i = false ∧ (nib ns).b4.getLsbD i = false

/-- Rules R233, R234, R255: the RuleEvaluator gives B3S23 of the count at every cell, from the carry-save planes at every
bit and from the nibble planes at bit 0 of every slot. -/
def Obligations.RuleEvaluatorIsConwaysRule : Prop :=
  ∀ (w : Nat) (ns : List (BitVec w)) (alive : BitVec w) (i : Nat), ns.length = 8 → i < w →
    (evalRule (csc ns) alive).getLsbD i = b3s23 (ns.countP (·.getLsbD i)) (alive.getLsbD i) ∧
    (w % 4 = 0 → i % 4 = 0 → (∀ v ∈ ns, ∀ b, v.getLsbD b = true → b % 4 = 0) →
      (evalRule (nib ns) alive).getLsbD i = b3s23 (ns.countP (·.getLsbD i)) (alive.getLsbD i))

/-! ## The generation step -/

/-- Rule R284: a STEP of a legal, ready, seeded engine completes, and every cell of the generation after it is B3S23 of its
live neighbors and its value before, under both strategies, for every L and every P. -/
def Obligations.StepComputesConwaysRule : Prop :=
  ∀ s : State, s.Inv → s.Ready → s.seeded = true →
    ∃ t, exec (.step 0 0 []) s = .next t ∧ grid t = life (grid s)

/-- Rules R25, R281, R283, R287: a STEP of a ready engine with a worker count of at least 1 writes NextWord(r, k) to every
element of the next buffer, leaves the current buffer as it was, swaps the roles, and changes nothing else but the
UNINIT_READ record, which it sets only when an element of the current buffer is unwritten; elements outside the grid
read as before. That the record is a field and the STEP goes on with free words is log 5 (DESIGN CHOICE, safe); that the
buffer just read, now next, keeps its words is log 8 (DESIGN CHOICE: R29 allows any value there). -/
def Obligations.StepFillsNextAndSwaps : Prop :=
  ∀ s : State, s.Ready → 1 ≤ s.cfgreg.workers →
    ∃ t, exec (.step 0 0 []) s = .next t ∧ t.cur = (!s.cur) ∧ t.buf s.cur = s.buf s.cur ∧
      (∀ r k, r < s.cfgreg.rows → k < s.cfgreg.wpr →
        (t.buf t.cur).read (r * s.cfgreg.wpr + k) = some ((nextWord s r k).setWidth 512)) ∧
      (∀ i, s.cfgreg.elements ≤ i → (t.buf t.cur).read i = (s.buf t.cur).read i) ∧
      t.cfgd = true ∧ t.fatal = false ∧ t.cause = s.cause ∧ t.cfgreg = s.cfgreg ∧ t.dec = s.dec ∧ t.rspq = s.rspq ∧
      t.taken = s.taken ∧ t.epoch = s.epoch ∧ t.capacity = s.capacity ∧ t.host = s.host ∧
      (t.uninitRead = true ↔ s.uninitRead = true ∨ ∃ i, i < s.cfgreg.elements ∧ s.written s.cur i = false)

/-- Rule R345: the frame of a STEP that raises an error or meets the gate: no element of either buffer and no field but
FATAL and CAUSE changes. -/
def Obligations.FailingStepFrame : Prop :=
  ∀ (s t : State) (rsv : BitVec 48) (h1 : Word) (p : List Word), exec (.step rsv h1 p) s = .next t → t.fatal = true →
    t = { s with fatal := true, cause := t.cause } ∧ ∀ b i, t.gread b i = s.gread b i

/-- Rule R29: the contents of the next buffer are not observable. Two states that differ only in the next buffer answer
any command with the same responses, the same CFGD, FATAL, CAUSE and CUR, and the same cells of the current generation;
a STEP overwrites the next buffer before any read. -/
def Obligations.NextBufferIsNotObservable : Prop :=
  ∀ (s t t' : State) (m : Memory) (i : Instr), s.Inv → exec i s = .next t →
    exec i (s.setBuf (!s.cur) m) = .next t' → SameYield t t'

/-- Rule R291: the workers' row ranges are disjoint, contiguous, in worker order and cover 0 .. R-1: joined in worker order
they are exactly the rows in order, for every P of at least 1, P > R included. -/
def Obligations.WorkerRangesPartitionTheRows : Prop :=
  ∀ rows p : Nat, 1 ≤ p → (List.range p).flatMap (workerRows rows p) = List.range rows

/-- Rules R61, R290: the worker count does not matter: with any other P >= 1 a STEP leaves the same buffers, word for word.
Nor does the order or partition of the words: writing NextWord in any order that meets every word of the grid leaves
every element reading the same. That the buffer just read keeps its words is log 8 (DESIGN CHOICE). -/
def Obligations.WorkersAndOrderDoNotMatter : Prop :=
  (∀ (s : State) (p : BitVec 17), s.Ready → 1 ≤ s.cfgreg.workers → 1 ≤ p.toNat →
    ∃ t t', exec (.step 0 0 []) s = .next t ∧
      exec (.step 0 0 []) { s with cfgreg := { s.cfgreg with P := p } } = .next t' ∧
      t'.buf0 = t.buf0 ∧ t'.buf1 = t.buf1 ∧ t'.cur = t.cur) ∧
  ∀ (s : State) (order : List (Nat × Nat)), 1 ≤ s.cfgreg.workers →
    (∀ r k, (r, k) ∈ order ↔ r < s.cfgreg.rows ∧ k < s.cfgreg.wpr) →
    ∀ i, (order.foldl (fun m rk => m.write (rk.1 * s.cfgreg.wpr + rk.2) ((nextWord s rk.1 rk.2).setWidth 512))
      (s.buf (!s.cur))).read i = (nextBuffer s).read i

/-- Rules R286, R322: K consecutive STEPs of a legal, ready, seeded engine complete, apply Conway's rule K times, K = 0
leaving the generation as it was, and leave in CUR the parity of K. -/
def Obligations.ConsecutiveStepsIterateConwaysRule : Prop :=
  ∀ (k : Nat) (s : State), s.Inv → s.Ready → s.seeded = true →
    ∃ t, generations k s = .next t ∧ grid t = lifeTimes k (grid s) ∧ t.cur = (s.cur ^^ decide (k % 2 = 1))

/-- Rule R257: strategy equivalence. On a carry-save and a nibble engine of the same grid, each legal and ready, the same
FILL leaves the same value in every cell of its chunk and in every cell that agreed before. Once seeded with the same
cells, whatever their word widths, lanes and workers, they show the same cells after any number of generations, and
RDBIT responds the same word at any coordinates. -/
def Obligations.StrategiesAgreeAfterAnyGenerations : Prop :=
  (∀ (s s' t t' : State) (row chunk : BitVec 32) (p : List Word), s.Inv → s'.Inv → s.Ready → s'.Ready →
    s.cfgreg.STRAT = 0 → s'.cfgreg.STRAT = 1 → s.cfgreg.R = s'.cfgreg.R → s.cfgreg.C = s'.cfgreg.C →
    s.cfgreg.LOG2W = s'.cfgreg.LOG2W → p.length = max 1 (s.cfgreg.W / 64) →
    (s.cfgreg.W < 64 → (p.headD 0).toNat < 2 ^ s.cfgreg.W) →
    exec (.fill row chunk 0 p) s = .next t → exec (.fill row chunk 0 p) s' = .next t' →
    ∀ r c : Int,
      ((r % s.cfgreg.rows = row.toInt % s.cfgreg.rows ∧
          c % s.cfgreg.cols / s.cfgreg.W = chunk.toInt % ((s.cfgreg.cols / s.cfgreg.W : Nat) : Int)) ∨
        grid s r c = grid s' r c) → grid t r c = grid t' r c) ∧
  ∀ (k : Nat) (s s' : State), s.Inv → s'.Inv → s.Ready → s'.Ready → s.seeded = true → s'.seeded = true →
    s.cfgreg.STRAT = 0 → s'.cfgreg.STRAT = 1 → s.cfgreg.R = s'.cfgreg.R → s.cfgreg.C = s'.cfgreg.C →
    grid s = grid s' →
    ∃ t t', generations k s = .next t ∧ generations k s' = .next t' ∧ grid t = grid t' ∧
      ∀ row col : BitVec 32, ∃ u u' v, exec (.rdbit row col 0 []) t = .next u ∧ exec (.rdbit row col 0 []) t' = .next u' ∧
        u.rspq = t.rspq ++ [v] ∧ u'.rspq = t'.rspq ++ [v]

/-- Rules R62, R384: a RDBIT right after a STEP responds the cell of the generation that STEP produced. -/
def Obligations.ReadAfterStepSeesTheNewGeneration : Prop :=
  ∀ (s : State) (row col : BitVec 32), s.Inv → s.Ready → s.seeded = true →
    ∃ t u, exec (.step 0 0 []) s = .next t ∧ exec (.rdbit row col 0 []) t = .next u ∧
      u.rspq = s.rspq ++ [if life (grid s) row.toInt col.toInt = true then 1 else 0]

/-! ## The invariant -/

/-- Rules R23, R28, R31, R85, R341 and 93 X6, X7: every step from a legal state gives a legal state: the buffers stay
canonical and inside the grid, every stored word fits W bits with its nibble slots 0 or 1, CFGREG stays legal, CAUSE
holds no reserved code and is NONE exactly while FATAL is 0, and DEC holds less than a command. -/
def Obligations.EveryStepKeepsTheInvariant : Prop :=
  ∀ s t : State, s.Inv → step s = .next t → t.Inv

/-- Rule R32: the state after reset is legal, for every instance. -/
def Obligations.ResetStateMeetsTheInvariant : Prop := ∀ capacity : Nat, (State.resetWith capacity).Inv

/-! ## The assembler -/

/-- 30_encoding.md section 7: the example lines assemble to the words the spec prints. -/
def Obligations.ExampleLinesAssembleToTheSpecsWords : Prop :=
  assemble ⟨0, 0, 8⟩ [.cfg 5 8 8 0 8 1, .fill 1 0 0x08, .rdbit (-1) (-1), .step, .stat] =
    some [0x0000000003300001, 0x0000000800000005, 0x0000000000000102, 0x0000000000000001, 0x0000000000000008,
      0x0000000000000003, 0xFFFFFFFFFFFFFFFF, 0x0000000000000004, 0, 0x0000000000000005, 0] ∧
  assemble ⟨0, 0, 8⟩ [.cfg 16 128 128 0 64 4] = some [0x0000000306700001, 0x0000008000000010] ∧
  assemble ⟨0, 0, 8⟩ [.cfg 4 16 16 1 16 1] = some [0x0000000004410001, 0x0000001000000004]
end

