-- ==== Sys2Proof/Laws/Channel.lean ====
section
/-! SUPPORT. The laws of the command channel: what stands next on it, and the framing of one command. -/

namespace Sys2Proof.Machine

@[simp] theorem leadingWords_word (w : Word) (ms : List HostMove) :
    leadingWords (.word w :: ms) = (w :: (leadingWords ms).1, (leadingWords ms).2) := rfl

@[simp] theorem sendWords_nil : sendWords [] = [] := rfl

@[simp] theorem sendWords_cons (w : Word) (ws : List Word) : sendWords (w :: ws) = .word w :: sendWords ws := rfl

/-- The words sent first stand first on the channel. -/
theorem leadingWords_sendWords (ws : List Word) (ms : List HostMove) :
    leadingWords (sendWords ws ++ ms) = (ws ++ (leadingWords ms).1, (leadingWords ms).2) := by
  induction ws with
  | nil => simp
  | cons w ws ih => simp [ih]

/-- Nothing on the channel is lost: the leading words and the later moves are all of it. -/
theorem sendWords_leadingWords (ms : List HostMove) :
    sendWords (leadingWords ms).1 ++ (leadingWords ms).2 = ms := by
  induction ms with
  | nil => rfl
  | cons m ms ih =>
    cases m with
    | word w => simpa using ih
    | take => rfl
    | reset => rfl

/-- The framing of rule R85: H0, H1 and LEN payload words make a command, and what follows is left over. -/
theorem splitCommand_append {h0 h1 : Word} {payload : List Word} (rest : List Word)
    (h : payload.length = lenField h0) :
    splitCommand (h0 :: h1 :: payload ++ rest) = some (h0, h1, payload, rest) := by
  simp [splitCommand, ← h]

/-- A command split off is a prefix of the words, with exactly LEN payload words. -/
theorem splitCommand_eq_some {ws : List Word} {h0 h1 : Word} {payload rest : List Word}
    (h : splitCommand ws = some (h0, h1, payload, rest)) :
    ws = h0 :: h1 :: payload ++ rest ∧ payload.length = lenField h0 := by
  unfold splitCommand at h
  split at h
  · rename_i h0' h1' tail
    split at h
    · rename_i hle
      simp only [Option.some.injEq, Prod.mk.injEq] at h
      obtain ⟨rfl, rfl, rfl, rfl⟩ := h
      simp [List.take_append_drop, Nat.min_eq_left hle]
    · cases h
  · cases h

/-- An opcode outside 0x01 .. 0x05 is rejected by name (rule R88). -/
theorem decodeFields_of_illegal {h0 : Word} (h1 : Word) (payload : List Word)
    (h : h0.toNat % 256 = 0 ∨ 5 < h0.toNat % 256) :
    decodeFields h0 h1 payload = .error (.illegalOpcode (opcField h0)) := by
  have hne : ∀ n : BitVec 8, 1 ≤ n.toNat → n.toNat ≤ 5 → opcField h0 ≠ n := by
    rintro n h1 h5 rfl
    simp only [opcField, BitVec.extractLsb'_toNat, Nat.shiftRight_zero] at h1 h5
    omega
  unfold decodeFields
  rw [if_neg (hne 0x01 (by decide) (by decide)), if_neg (hne 0x02 (by decide) (by decide)),
    if_neg (hne 0x03 (by decide) (by decide)), if_neg (hne 0x04 (by decide) (by decide)),
    if_neg (hne 0x05 (by decide) (by decide))]

/-- A step on a channel whose next moves are words of one whole command runs that command (rule R85). -/
theorem step_of_split {s : State} {w : Word} {ws : List Word} {ms : List HostMove} {h0 h1 : Word}
    {payload rest : List Word} (hhost : s.host = sendWords (w :: ws) ++ ms)
    (hsplit : splitCommand (s.dec ++ (w :: ws) ++ (leadingWords ms).1) = some (h0, h1, payload, rest)) :
    step s = runCommand h0 h1 payload { s with dec := [], host := sendWords rest ++ (leadingWords ms).2 } := by
  have hl : leadingWords s.host = (w :: ws ++ (leadingWords ms).1, (leadingWords ms).2) := by
    rw [hhost, leadingWords_sendWords]
  have : step s = receive s := by
    unfold step nextTransition; rw [hhost]; rfl
  rw [this, receive, hl]
  simp only [← List.append_assoc, hsplit]

end Sys2Proof.Machine
end

