-- ==== Sys2Proof/Laws/Codec.lean ====
section
/-! SUPPORT. The fields of a word that `headerWord`, `cfgBody` or `operandWord` built, one lemma for each field the decoder
reads. -/

namespace Sys2Proof

theorem opcField_headerWord (body : BitVec 48) (p : List Word) (opc : BitVec 8) :
    opcField (headerWord body p opc) = opc := by
  show BitVec.extractLsb' 0 8 (body ++ BitVec.ofNat 8 p.length ++ opc : BitVec (48 + 8 + 8)) = _
  rw [BitVec.extractLsb'_append_eq_of_add_le (by omega)]
  simp

theorem lenField_headerWord (body : BitVec 48) {p : List Word} (opc : BitVec 8) (h : p.length ≤ 255) :
    lenField (headerWord body p opc) = p.length := by
  have : (headerWord body p opc).extractLsb' 8 8 = BitVec.ofNat 8 p.length := by
    show BitVec.extractLsb' 8 8 (body ++ BitVec.ofNat 8 p.length ++ opc : BitVec (48 + 8 + 8)) = _
    rw [BitVec.extractLsb'_append_eq_of_le (by omega), BitVec.extractLsb'_append_eq_of_add_le (by omega)]
    simp
  rw [lenField, this, BitVec.toNat_ofNat, Nat.mod_eq_of_lt (by omega)]

theorem bodyField_headerWord (body : BitVec 48) (p : List Word) (opc : BitVec 8) :
    bodyField (headerWord body p opc) = body := by
  show BitVec.extractLsb' 16 48 (body ++ BitVec.ofNat 8 p.length ++ opc : BitVec (48 + 8 + 8)) = _
  rw [BitVec.extractLsb'_append_eq_of_le (by omega), BitVec.extractLsb'_append_eq_of_le (by omega)]
  simp

theorem operandA_operandWord (a b : BitVec 32) : operandA (operandWord a b) = a := by
  show BitVec.extractLsb' 0 32 (b ++ a : BitVec (32 + 32)) = _
  rw [BitVec.extractLsb'_append_eq_of_add_le (by omega)]
  simp

theorem operandB_operandWord (a b : BitVec 32) : operandB (operandWord a b) = b := by
  show BitVec.extractLsb' 32 32 (b ++ a : BitVec (32 + 32)) = _
  rw [BitVec.extractLsb'_append_eq_of_le (by omega)]
  simp

/-- A field of H0 above bit 16 is a field of H0[63:16]. -/
theorem extract_bodyField (h0 : Word) (a n : Nat) (h : a + n ≤ 48) :
    h0.extractLsb' (16 + a) n = (bodyField h0).extractLsb' a n := by
  apply BitVec.eq_of_getLsbD_eq
  intro i hi
  simp [bodyField, hi, show a + i < 48 by omega, Nat.add_assoc]

/-- H0 is the word its three parts build, when LEN counts the payload. -/
theorem headerWord_fields {h0 : Word} {p : List Word} (h : p.length = lenField h0) :
    headerWord (bodyField h0) p (opcField h0) = h0 := by
  have hl : BitVec.ofNat 8 p.length = h0.extractLsb' 8 8 := by
    rw [h, lenField, BitVec.ofNat_toNat, BitVec.setWidth_eq]
  unfold headerWord bodyField opcField
  rw [hl]
  refine BitVec.eq_of_getLsbD_eq (x := (_ : BitVec (48 + 8 + 8))) fun i hi => ?_
  simp only [BitVec.getLsbD_append, BitVec.getLsbD_extractLsb']
  by_cases h1 : i < 8
  · simp [h1]
  · by_cases h2 : i - 8 < 8
    · simp [h1, h2, show 8 + (i - 8) = i by omega]
    · simp [h1, h2, show i - 8 - 8 < 48 by omega, show 16 + (i - 8 - 8) = i by omega]

/-- H1 is the word its two operands build. -/
theorem operandWord_fields (h1 : Word) : operandWord (operandA h1) (operandB h1) = h1 := by
  unfold operandWord operandA operandB
  refine BitVec.eq_of_getLsbD_eq (x := (_ : BitVec (32 + 32))) fun i hi => ?_
  simp only [BitVec.getLsbD_append, BitVec.getLsbD_extractLsb']
  by_cases h1 : i < 32
  · simp [h1]
  · simp [h1, show i - 32 < 32 by omega, show 32 + (i - 32) = i by omega]

end Sys2Proof
end

