-- ==== Sys2Proof/Laws/Operands.lean ====
section
/-! SUPPORT. The laws of the operand helpers: the bits of `ofBits`, of an assembled payload and of a nibble word, and the
range of a reduced coordinate. -/

namespace Sys2Proof.Machine

theorem getLsbD_bitsBelow (w : Nat) (f : Nat → Bool) (n i : Nat) (h : n ≤ w) :
    (bitsBelow w f n).getLsbD i = (decide (i < n) && f i) := by
  induction n with
  | zero => simp [bitsBelow]
  | succ n ih =>
    rw [bitsBelow, BitVec.getLsbD_or, ih (by omega)]
    by_cases hf : f n
    · rcases Nat.lt_trichotomy i n with h1 | h1 | h1
      · simp [hf, BitVec.getLsbD_twoPow, h1, show i < n + 1 by omega, show n ≠ i by omega]
      · subst h1; simp [hf, show i < w by omega]
      · simp [hf, BitVec.getLsbD_twoPow, show ¬ i < n by omega, show ¬ i < n + 1 by omega, show n ≠ i by omega]
    · rcases Nat.lt_trichotomy i n with h1 | h1 | h1
      · simp [hf, h1, show i < n + 1 by omega]
      · subst h1; simp [hf]
      · simp [hf, show ¬ i < n by omega, show ¬ i < n + 1 by omega]

/-- Bit i of `ofBits w f` is f i below the width. -/
@[simp] theorem getLsbD_ofBits (w : Nat) (f : Nat → Bool) (i : Nat) :
    (ofBits w f).getLsbD i = (decide (i < w) && f i) := getLsbD_bitsBelow w f w i (Nat.le_refl w)

/-- Bit j of the fill value is bit j mod 64 of payload word j div 64 (rule R84). -/
theorem getLsbD_assemblePayload (w : Nat) (ps : List Word) (j : Nat) :
    (assemblePayload w ps).getLsbD j = (decide (j < w) && (ps.getD (j / 64) 0).getLsbD (j % 64)) := by
  induction ps generalizing j with
  | nil => simp [assemblePayload]
  | cons p ps ih =>
    rw [assemblePayload, BitVec.getLsbD_or, BitVec.getLsbD_setWidth, BitVec.getLsbD_shiftLeft, ih]
    by_cases hj : j < w
    · by_cases h64 : j < 64
      · simp [hj, h64, Nat.div_eq_of_lt h64, Nat.mod_eq_of_lt h64]
      · have hd : j / 64 = (j - 64) / 64 + 1 := by omega
        have hm : (j - 64) % 64 = j % 64 := by omega
        have hw : j - 64 < w := by omega
        have hp : p.getLsbD j = false := BitVec.getLsbD_of_ge _ _ (by omega)
        simp [hj, h64, hd, hm, hw, hp]
    · have hp : ¬ j < w := hj
      simp [hp]

/-- Bit i of word q of a nibble chunk: the cell bits stand in bit 0 of each slot, zero elsewhere (rule R131). -/
theorem getLsbD_nibbleWord {w : Nat} (v : BitVec w) (q i : Nat) :
    (nibbleWord v q).getLsbD i = (decide (i < w) && (i % 4 == 0 && v.getLsbD (q * (w / 4) + i / 4))) := by
  simp [nibbleWord]

/-- A reduced coordinate is an index of its dimension (rule R52). -/
theorem wrap_lt (x : Int) {n : Nat} (h : 0 < n) : wrap x n < n := by
  have h1 := Int.emod_lt_of_pos x (show (0 : Int) < n by omega)
  have h2 := Int.emod_nonneg x (show (n : Int) ≠ 0 by omega)
  unfold wrap; omega

/-- A reduced coordinate of an index is the index. -/
theorem wrap_of_lt {i n : Nat} (h : i < n) : wrap (i : Int) n = i := by
  unfold wrap
  rw [Int.emod_eq_of_lt (by omega) (by omega)]; simp

/-- Coordinates congruent modulo the dimension reduce alike (rule R54). -/
theorem wrap_add_mul (x a : Int) (n : Nat) : wrap (x + a * n) n = wrap x n := by
  simp [wrap]

/-- The reduced coordinate as an integer. -/
theorem wrap_cast (x : Int) {n : Nat} (h : 0 < n) : ((wrap x n : Nat) : Int) = x % n := by
  unfold wrap
  rw [Int.toNat_of_nonneg (Int.emod_nonneg x (by omega))]

/-- Reducing a reduced coordinate again changes nothing. -/
theorem wrap_wrap (x : Int) {n : Nat} (h : 0 < n) : wrap (wrap x n : Nat) n = wrap x n := wrap_of_lt (wrap_lt x h)

/-- A cell is read at its reduced coordinates (rules R52, R136). -/
theorem cell_wrap (s : State) (b : Bool) (row col : Int) (hr : 0 < s.cfgreg.rows) (hc : 0 < s.cfgreg.cols) :
    cell s b row col = cell s b (wrap row s.cfgreg.rows : Nat) (wrap col s.cfgreg.cols : Nat) := by
  simp only [cell, cellAddr, wrap_wrap _ hr, wrap_wrap _ hc]

end Sys2Proof.Machine
end

