-- ==== Sys2Proof/Laws/Datapath.lean ====
section
/-! SUPPORT. The datapath of STEP bit by bit: the words it reads, the scalar and the vector shift, the two counters and
the rule. -/

namespace Sys2Proof.Machine

/-- Bit i of a grid word is bit i of the stored element, below W (rule R125). -/
theorem getLsbD_gword (s : State) (r k : Int) (i : Nat) :
    (gword s r k).getLsbD i = (decide (i < s.cfgreg.W) &&
      (s.gread s.cur (wrap r s.cfgreg.rows * s.cfgreg.wpr + wrap k s.cfgreg.wpr)).getLsbD i) := by
  simp [gword]

/-- The shift to the higher index: the slot below, or the top slot of the word below (rule R164). -/
theorem getLsbD_shiftScalar_minus {w s : Nat} (v below above : BitVec w) {i : Nat} (hs : s ≤ w) (hi : i < w) :
    (shiftScalar s .minus v below above).getLsbD i =
      if i < s then below.getLsbD (w - s + i) else v.getLsbD (i - s) := by
  simp only [shiftScalar, BitVec.getLsbD_or, BitVec.getLsbD_shiftLeft, BitVec.getLsbD_ushiftRight]
  split
  · simp [*]
  · rw [BitVec.getLsbD_of_ge below _ (by omega)]; simp [*]

/-- The bits of the low-slot mask. -/
theorem getLsbD_slot_mask (w s i : Nat) : (BitVec.ofNat w (2 ^ s - 1)).getLsbD i = (decide (i < w) && decide (i < s)) := by
  simp [BitVec.getLsbD_ofNat, Nat.testBit_two_pow_sub_one]

/-- The shift to the lower index: the slot above, or the bottom slot of the word above (rule R165). -/
theorem getLsbD_shiftScalar_plus {w s : Nat} (v below above : BitVec w) {i : Nat} (hs : s ≤ w) (hi : i < w) :
    (shiftScalar s .plus v below above).getLsbD i =
      if i + s < w then v.getLsbD (i + s) else above.getLsbD (i + s - w) := by
  simp only [shiftScalar, BitVec.getLsbD_or, BitVec.getLsbD_shiftLeft, BitVec.getLsbD_ushiftRight, BitVec.getLsbD_and,
    getLsbD_slot_mask, Nat.add_comm s i]
  split
  · simp [show i < w - s by omega]
  · rw [BitVec.getLsbD_of_ge v _ (by omega)]
    simp [hi, show ¬ i < w - s by omega, show i - (w - s) = i + s - w by omega, show i + s - w < w by omega,
      show i + s - w < s by omega]

/-- Bit i of lane q is bit q*L + i of the word (rule R27). -/
@[simp] theorem getLsbD_lane {w l : Nat} (v : BitVec w) (q i : Nat) :
    (lane l v q).getLsbD i = (decide (i < l) && v.getLsbD (q * l + i)) := by
  simp [lane]

/-- Bit i of the vector neighbor word is bit i mod L of its lane i div L (rule R170). -/
theorem getLsbD_shiftVector {w : Nat} (l s : Nat) (dx : Delta) (v below above : BitVec w) (i : Nat) :
    (shiftVector l s dx v below above).getLsbD i =
      (decide (i < w) && (shiftLane l s (w / l) dx v below above (i / l)).getLsbD (i % l)) := by
  simp [shiftVector]

/-- One iteration of the carry-save fold at one bit (rule R202). -/
theorem getLsbD_foldNeighbor {w : Nat} (p : Planes w) (n : BitVec w) (j : Nat) :
    (foldNeighbor p n).b1.getLsbD j = (p.b1.getLsbD j ^^ n.getLsbD j) ∧
    (foldNeighbor p n).b2.getLsbD j = (p.b2.getLsbD j ^^ (p.b1.getLsbD j && n.getLsbD j)) ∧
    (foldNeighbor p n).b4.getLsbD j = (p.b4.getLsbD j || (p.b2.getLsbD j && (p.b1.getLsbD j && n.getLsbD j))) := by
  simp [foldNeighbor]

/-- The slot mask has bit 0 of every slot (44_nibble_counter.md, opening). -/
@[simp] theorem getLsbD_slotMask (w i : Nat) : (slotMask w).getLsbD i = (decide (i < w) && i % 4 == 0) := by
  simp [slotMask]

/-- The nibble planes at one bit (rule R253). -/
theorem getLsbD_nib {w : Nat} (ns : List (BitVec w)) (i : Nat) :
    (nib ns).b1.getLsbD i = ((nibbleSum ns).getLsbD i && (decide (i < w) && i % 4 == 0)) ∧
    (nib ns).b2.getLsbD i = ((nibbleSum ns).getLsbD (1 + i) && (decide (i < w) && i % 4 == 0)) ∧
    (nib ns).b4.getLsbD i = ((nibbleSum ns).getLsbD (2 + i) && (decide (i < w) && i % 4 == 0)) := by
  simp [nib]

/-- The rule at one bit (rule R231). -/
theorem getLsbD_evalRule {w : Nat} (p : Planes w) (alive : BitVec w) {i : Nat} (hi : i < w) :
    (evalRule p alive).getLsbD i =
      (p.b2.getLsbD i && (p.b1.getLsbD i || alive.getLsbD i) && !p.b4.getLsbD i) := by
  simp [evalRule, hi]

end Sys2Proof.Machine
end

