-- ==== Sys2Proof/Laws/State.lean ====
section
/-! SUPPORT. One lemma for each field of State and each update of it, so that no proof unfolds a record update. -/

namespace Sys2Proof.Machine

@[simp] theorem respond_cfgd (v : Word) (s : State) : (respond v s).cfgd = s.cfgd := rfl
@[simp] theorem respond_fatal (v : Word) (s : State) : (respond v s).fatal = s.fatal := rfl
@[simp] theorem respond_cause (v : Word) (s : State) : (respond v s).cause = s.cause := rfl
@[simp] theorem respond_cfgreg (v : Word) (s : State) : (respond v s).cfgreg = s.cfgreg := rfl
@[simp] theorem respond_cur (v : Word) (s : State) : (respond v s).cur = s.cur := rfl
@[simp] theorem respond_buf0 (v : Word) (s : State) : (respond v s).buf0 = s.buf0 := rfl
@[simp] theorem respond_buf1 (v : Word) (s : State) : (respond v s).buf1 = s.buf1 := rfl
@[simp] theorem respond_dec (v : Word) (s : State) : (respond v s).dec = s.dec := rfl
@[simp] theorem respond_rspq (v : Word) (s : State) : (respond v s).rspq = s.rspq ++ [v] := rfl
@[simp] theorem respond_taken (v : Word) (s : State) : (respond v s).taken = s.taken := rfl
@[simp] theorem respond_uninitRead (v : Word) (s : State) : (respond v s).uninitRead = s.uninitRead := rfl
@[simp] theorem respond_epoch (v : Word) (s : State) : (respond v s).epoch = s.epoch := rfl
@[simp] theorem respond_capacity (v : Word) (s : State) : (respond v s).capacity = s.capacity := rfl
@[simp] theorem respond_host (v : Word) (s : State) : (respond v s).host = s.host := rfl

@[simp] theorem recordUninit_cfgd (bad : Bool) (s : State) : (recordUninit bad s).cfgd = s.cfgd := rfl
@[simp] theorem recordUninit_fatal (bad : Bool) (s : State) : (recordUninit bad s).fatal = s.fatal := rfl
@[simp] theorem recordUninit_cause (bad : Bool) (s : State) : (recordUninit bad s).cause = s.cause := rfl
@[simp] theorem recordUninit_cfgreg (bad : Bool) (s : State) : (recordUninit bad s).cfgreg = s.cfgreg := rfl
@[simp] theorem recordUninit_cur (bad : Bool) (s : State) : (recordUninit bad s).cur = s.cur := rfl
@[simp] theorem recordUninit_buf0 (bad : Bool) (s : State) : (recordUninit bad s).buf0 = s.buf0 := rfl
@[simp] theorem recordUninit_buf1 (bad : Bool) (s : State) : (recordUninit bad s).buf1 = s.buf1 := rfl
@[simp] theorem recordUninit_dec (bad : Bool) (s : State) : (recordUninit bad s).dec = s.dec := rfl
@[simp] theorem recordUninit_rspq (bad : Bool) (s : State) : (recordUninit bad s).rspq = s.rspq := rfl
@[simp] theorem recordUninit_taken (bad : Bool) (s : State) : (recordUninit bad s).taken = s.taken := rfl
@[simp] theorem recordUninit_uninitRead (bad : Bool) (s : State) : (recordUninit bad s).uninitRead = (s.uninitRead || bad) :=
  rfl
@[simp] theorem recordUninit_epoch (bad : Bool) (s : State) : (recordUninit bad s).epoch = s.epoch := rfl
@[simp] theorem recordUninit_capacity (bad : Bool) (s : State) : (recordUninit bad s).capacity = s.capacity := rfl
@[simp] theorem recordUninit_host (bad : Bool) (s : State) : (recordUninit bad s).host = s.host := rfl

@[simp] theorem swapBuffers_cfgd (s : State) : (swapBuffers s).cfgd = s.cfgd := rfl
@[simp] theorem swapBuffers_fatal (s : State) : (swapBuffers s).fatal = s.fatal := rfl
@[simp] theorem swapBuffers_cause (s : State) : (swapBuffers s).cause = s.cause := rfl
@[simp] theorem swapBuffers_cfgreg (s : State) : (swapBuffers s).cfgreg = s.cfgreg := rfl
@[simp] theorem swapBuffers_cur (s : State) : (swapBuffers s).cur = !s.cur := rfl
@[simp] theorem swapBuffers_buf0 (s : State) : (swapBuffers s).buf0 = s.buf0 := rfl
@[simp] theorem swapBuffers_buf1 (s : State) : (swapBuffers s).buf1 = s.buf1 := rfl
@[simp] theorem swapBuffers_dec (s : State) : (swapBuffers s).dec = s.dec := rfl
@[simp] theorem swapBuffers_rspq (s : State) : (swapBuffers s).rspq = s.rspq := rfl
@[simp] theorem swapBuffers_taken (s : State) : (swapBuffers s).taken = s.taken := rfl
@[simp] theorem swapBuffers_uninitRead (s : State) : (swapBuffers s).uninitRead = s.uninitRead := rfl
@[simp] theorem swapBuffers_epoch (s : State) : (swapBuffers s).epoch = s.epoch := rfl
@[simp] theorem swapBuffers_capacity (s : State) : (swapBuffers s).capacity = s.capacity := rfl
@[simp] theorem swapBuffers_host (s : State) : (swapBuffers s).host = s.host := rfl

@[simp] theorem takeResponse_cfgd (s : State) : (takeResponse s).cfgd = s.cfgd := rfl
@[simp] theorem takeResponse_fatal (s : State) : (takeResponse s).fatal = s.fatal := rfl
@[simp] theorem takeResponse_cause (s : State) : (takeResponse s).cause = s.cause := rfl
@[simp] theorem takeResponse_cfgreg (s : State) : (takeResponse s).cfgreg = s.cfgreg := rfl
@[simp] theorem takeResponse_cur (s : State) : (takeResponse s).cur = s.cur := rfl
@[simp] theorem takeResponse_buf0 (s : State) : (takeResponse s).buf0 = s.buf0 := rfl
@[simp] theorem takeResponse_buf1 (s : State) : (takeResponse s).buf1 = s.buf1 := rfl
@[simp] theorem takeResponse_dec (s : State) : (takeResponse s).dec = s.dec := rfl
@[simp] theorem takeResponse_rspq (s : State) : (takeResponse s).rspq = s.rspq.tail := rfl
@[simp] theorem takeResponse_taken (s : State) : (takeResponse s).taken = s.taken ++ s.rspq.take 1 := rfl
@[simp] theorem takeResponse_uninitRead (s : State) : (takeResponse s).uninitRead = s.uninitRead := rfl
@[simp] theorem takeResponse_epoch (s : State) : (takeResponse s).epoch = s.epoch := rfl
@[simp] theorem takeResponse_capacity (s : State) : (takeResponse s).capacity = s.capacity := rfl
@[simp] theorem takeResponse_host (s : State) : (takeResponse s).host = s.host := rfl

@[simp] theorem construct_cfgd (g : CfgReg) (s : State) : (construct g s).cfgd = true := rfl
@[simp] theorem construct_fatal (g : CfgReg) (s : State) : (construct g s).fatal = s.fatal := rfl
@[simp] theorem construct_cause (g : CfgReg) (s : State) : (construct g s).cause = s.cause := rfl
@[simp] theorem construct_cfgreg (g : CfgReg) (s : State) : (construct g s).cfgreg = g := rfl
@[simp] theorem construct_cur (g : CfgReg) (s : State) : (construct g s).cur = false := rfl
@[simp] theorem construct_buf0 (g : CfgReg) (s : State) : (construct g s).buf0 = [] := rfl
@[simp] theorem construct_buf1 (g : CfgReg) (s : State) : (construct g s).buf1 = [] := rfl
@[simp] theorem construct_dec (g : CfgReg) (s : State) : (construct g s).dec = s.dec := rfl
@[simp] theorem construct_rspq (g : CfgReg) (s : State) : (construct g s).rspq = s.rspq := rfl
@[simp] theorem construct_taken (g : CfgReg) (s : State) : (construct g s).taken = s.taken := rfl
@[simp] theorem construct_uninitRead (g : CfgReg) (s : State) : (construct g s).uninitRead = s.uninitRead := rfl
@[simp] theorem construct_epoch (g : CfgReg) (s : State) : (construct g s).epoch = s.epoch + 1 := rfl
@[simp] theorem construct_capacity (g : CfgReg) (s : State) : (construct g s).capacity = s.capacity := rfl
@[simp] theorem construct_host (g : CfgReg) (s : State) : (construct g s).host = s.host := rfl

@[simp] theorem resetTransition_cfgd (s : State) : (resetTransition s).cfgd = false := rfl
@[simp] theorem resetTransition_fatal (s : State) : (resetTransition s).fatal = false := rfl
@[simp] theorem resetTransition_cause (s : State) : (resetTransition s).cause = 0x00 := rfl
@[simp] theorem resetTransition_cfgreg (s : State) : (resetTransition s).cfgreg = ⟨0, 0, 0, 0, 0, 0⟩ := rfl
@[simp] theorem resetTransition_cur (s : State) : (resetTransition s).cur = false := rfl
@[simp] theorem resetTransition_buf0 (s : State) : (resetTransition s).buf0 = [] := rfl
@[simp] theorem resetTransition_buf1 (s : State) : (resetTransition s).buf1 = [] := rfl
@[simp] theorem resetTransition_dec (s : State) : (resetTransition s).dec = [] := rfl
@[simp] theorem resetTransition_rspq (s : State) : (resetTransition s).rspq = [] := rfl
@[simp] theorem resetTransition_taken (s : State) : (resetTransition s).taken = [] := rfl
@[simp] theorem resetTransition_uninitRead (s : State) : (resetTransition s).uninitRead = s.uninitRead := rfl
@[simp] theorem resetTransition_epoch (s : State) : (resetTransition s).epoch = s.epoch := rfl
@[simp] theorem resetTransition_capacity (s : State) : (resetTransition s).capacity = s.capacity := rfl
@[simp] theorem resetTransition_host (s : State) : (resetTransition s).host = s.host := rfl

@[simp] theorem raiseFatal_cfgd (c : Cause) (s : State) : (raiseFatal c s).cfgd = s.cfgd := by
  unfold raiseFatal; split <;> simp_all
@[simp] theorem raiseFatal_fatal (c : Cause) (s : State) : (raiseFatal c s).fatal = true := by
  unfold raiseFatal; split <;> simp_all
@[simp] theorem raiseFatal_cause (c : Cause) (s : State) : (raiseFatal c s).cause = if s.fatal then s.cause else c.code := by
  unfold raiseFatal; split <;> simp_all
@[simp] theorem raiseFatal_cfgreg (c : Cause) (s : State) : (raiseFatal c s).cfgreg = s.cfgreg := by
  unfold raiseFatal; split <;> simp_all
@[simp] theorem raiseFatal_cur (c : Cause) (s : State) : (raiseFatal c s).cur = s.cur := by
  unfold raiseFatal; split <;> simp_all
@[simp] theorem raiseFatal_buf0 (c : Cause) (s : State) : (raiseFatal c s).buf0 = s.buf0 := by
  unfold raiseFatal; split <;> simp_all
@[simp] theorem raiseFatal_buf1 (c : Cause) (s : State) : (raiseFatal c s).buf1 = s.buf1 := by
  unfold raiseFatal; split <;> simp_all
@[simp] theorem raiseFatal_dec (c : Cause) (s : State) : (raiseFatal c s).dec = s.dec := by
  unfold raiseFatal; split <;> simp_all
@[simp] theorem raiseFatal_rspq (c : Cause) (s : State) : (raiseFatal c s).rspq = s.rspq := by
  unfold raiseFatal; split <;> simp_all
@[simp] theorem raiseFatal_taken (c : Cause) (s : State) : (raiseFatal c s).taken = s.taken := by
  unfold raiseFatal; split <;> simp_all
@[simp] theorem raiseFatal_uninitRead (c : Cause) (s : State) : (raiseFatal c s).uninitRead = s.uninitRead := by
  unfold raiseFatal; split <;> simp_all
@[simp] theorem raiseFatal_epoch (c : Cause) (s : State) : (raiseFatal c s).epoch = s.epoch := by
  unfold raiseFatal; split <;> simp_all
@[simp] theorem raiseFatal_capacity (c : Cause) (s : State) : (raiseFatal c s).capacity = s.capacity := by
  unfold raiseFatal; split <;> simp_all
@[simp] theorem raiseFatal_host (c : Cause) (s : State) : (raiseFatal c s).host = s.host := by
  unfold raiseFatal; split <;> simp_all

@[simp] theorem setBuf_cfgd (b : Bool) (m : Memory) (s : State) : (s.setBuf b m).cfgd = s.cfgd := by cases b <;> rfl
@[simp] theorem setBuf_fatal (b : Bool) (m : Memory) (s : State) : (s.setBuf b m).fatal = s.fatal :=
  by cases b <;> rfl
@[simp] theorem setBuf_cause (b : Bool) (m : Memory) (s : State) : (s.setBuf b m).cause = s.cause :=
  by cases b <;> rfl
@[simp] theorem setBuf_cfgreg (b : Bool) (m : Memory) (s : State) : (s.setBuf b m).cfgreg = s.cfgreg :=
  by cases b <;> rfl
@[simp] theorem setBuf_cur (b : Bool) (m : Memory) (s : State) : (s.setBuf b m).cur = s.cur := by cases b <;> rfl
@[simp] theorem setBuf_buf0 (b : Bool) (m : Memory) (s : State) : (s.setBuf b m).buf0 = if b then s.buf0 else m :=
  by cases b <;> rfl
@[simp] theorem setBuf_buf1 (b : Bool) (m : Memory) (s : State) : (s.setBuf b m).buf1 = if b then m else s.buf1 :=
  by cases b <;> rfl
@[simp] theorem setBuf_dec (b : Bool) (m : Memory) (s : State) : (s.setBuf b m).dec = s.dec := by cases b <;> rfl
@[simp] theorem setBuf_rspq (b : Bool) (m : Memory) (s : State) : (s.setBuf b m).rspq = s.rspq := by cases b <;> rfl
@[simp] theorem setBuf_taken (b : Bool) (m : Memory) (s : State) : (s.setBuf b m).taken = s.taken :=
  by cases b <;> rfl
@[simp] theorem setBuf_uninitRead (b : Bool) (m : Memory) (s : State) : (s.setBuf b m).uninitRead = s.uninitRead :=
  by cases b <;> rfl
@[simp] theorem setBuf_epoch (b : Bool) (m : Memory) (s : State) : (s.setBuf b m).epoch = s.epoch :=
  by cases b <;> rfl
@[simp] theorem setBuf_capacity (b : Bool) (m : Memory) (s : State) : (s.setBuf b m).capacity = s.capacity :=
  by cases b <;> rfl
@[simp] theorem setBuf_host (b : Bool) (m : Memory) (s : State) : (s.setBuf b m).host = s.host := by cases b <;> rfl

@[simp] theorem gwrite_cfgd (b : Bool) (i : Nat) (v : GridWord) (s : State) : (s.gwrite b i v).cfgd = s.cfgd :=
  setBuf_cfgd _ _ _
@[simp] theorem gwrite_fatal (b : Bool) (i : Nat) (v : GridWord) (s : State) : (s.gwrite b i v).fatal = s.fatal :=
  setBuf_fatal _ _ _
@[simp] theorem gwrite_cause (b : Bool) (i : Nat) (v : GridWord) (s : State) : (s.gwrite b i v).cause = s.cause :=
  setBuf_cause _ _ _
@[simp] theorem gwrite_cfgreg (b : Bool) (i : Nat) (v : GridWord) (s : State) : (s.gwrite b i v).cfgreg = s.cfgreg :=
  setBuf_cfgreg _ _ _
@[simp] theorem gwrite_cur (b : Bool) (i : Nat) (v : GridWord) (s : State) : (s.gwrite b i v).cur = s.cur :=
  setBuf_cur _ _ _
@[simp] theorem gwrite_dec (b : Bool) (i : Nat) (v : GridWord) (s : State) : (s.gwrite b i v).dec = s.dec :=
  setBuf_dec _ _ _
@[simp] theorem gwrite_rspq (b : Bool) (i : Nat) (v : GridWord) (s : State) : (s.gwrite b i v).rspq = s.rspq :=
  setBuf_rspq _ _ _
@[simp] theorem gwrite_taken (b : Bool) (i : Nat) (v : GridWord) (s : State) : (s.gwrite b i v).taken = s.taken :=
  setBuf_taken _ _ _
@[simp] theorem gwrite_uninitRead (b : Bool) (i : Nat) (v : GridWord) (s : State) : (s.gwrite b i v).uninitRead = s.uninitRead :=
  setBuf_uninitRead _ _ _
@[simp] theorem gwrite_epoch (b : Bool) (i : Nat) (v : GridWord) (s : State) : (s.gwrite b i v).epoch = s.epoch :=
  setBuf_epoch _ _ _
@[simp] theorem gwrite_capacity (b : Bool) (i : Nat) (v : GridWord) (s : State) : (s.gwrite b i v).capacity = s.capacity :=
  setBuf_capacity _ _ _
@[simp] theorem gwrite_host (b : Bool) (i : Nat) (v : GridWord) (s : State) : (s.gwrite b i v).host = s.host :=
  setBuf_host _ _ _

@[simp] theorem fillChunk_cfgd (s : State) (row chunk : Int) (v : BitVec s.cfgreg.W) : (fillChunk s row chunk v).cfgd = s.cfgd := by
  unfold fillChunk; split <;> simp
@[simp] theorem fillChunk_fatal (s : State) (row chunk : Int) (v : BitVec s.cfgreg.W) : (fillChunk s row chunk v).fatal = s.fatal := by
  unfold fillChunk; split <;> simp
@[simp] theorem fillChunk_cause (s : State) (row chunk : Int) (v : BitVec s.cfgreg.W) : (fillChunk s row chunk v).cause = s.cause := by
  unfold fillChunk; split <;> simp
@[simp] theorem fillChunk_cfgreg (s : State) (row chunk : Int) (v : BitVec s.cfgreg.W) : (fillChunk s row chunk v).cfgreg = s.cfgreg := by
  unfold fillChunk; split <;> simp
@[simp] theorem fillChunk_cur (s : State) (row chunk : Int) (v : BitVec s.cfgreg.W) : (fillChunk s row chunk v).cur = s.cur := by
  unfold fillChunk; split <;> simp
@[simp] theorem fillChunk_dec (s : State) (row chunk : Int) (v : BitVec s.cfgreg.W) : (fillChunk s row chunk v).dec = s.dec := by
  unfold fillChunk; split <;> simp
@[simp] theorem fillChunk_rspq (s : State) (row chunk : Int) (v : BitVec s.cfgreg.W) : (fillChunk s row chunk v).rspq = s.rspq := by
  unfold fillChunk; split <;> simp
@[simp] theorem fillChunk_taken (s : State) (row chunk : Int) (v : BitVec s.cfgreg.W) : (fillChunk s row chunk v).taken = s.taken := by
  unfold fillChunk; split <;> simp
@[simp] theorem fillChunk_uninitRead (s : State) (row chunk : Int) (v : BitVec s.cfgreg.W) : (fillChunk s row chunk v).uninitRead = s.uninitRead := by
  unfold fillChunk; split <;> simp
@[simp] theorem fillChunk_epoch (s : State) (row chunk : Int) (v : BitVec s.cfgreg.W) : (fillChunk s row chunk v).epoch = s.epoch := by
  unfold fillChunk; split <;> simp
@[simp] theorem fillChunk_capacity (s : State) (row chunk : Int) (v : BitVec s.cfgreg.W) : (fillChunk s row chunk v).capacity = s.capacity := by
  unfold fillChunk; split <;> simp
@[simp] theorem fillChunk_host (s : State) (row chunk : Int) (v : BitVec s.cfgreg.W) : (fillChunk s row chunk v).host = s.host := by
  unfold fillChunk; split <;> simp

@[simp] theorem readCell_cfgd (s : State) (row col : Int) : (readCell s row col).cfgd = s.cfgd := by simp [readCell]
@[simp] theorem readCell_fatal (s : State) (row col : Int) : (readCell s row col).fatal = s.fatal :=
  by simp [readCell]
@[simp] theorem readCell_cause (s : State) (row col : Int) : (readCell s row col).cause = s.cause :=
  by simp [readCell]
@[simp] theorem readCell_cfgreg (s : State) (row col : Int) : (readCell s row col).cfgreg = s.cfgreg :=
  by simp [readCell]
@[simp] theorem readCell_cur (s : State) (row col : Int) : (readCell s row col).cur = s.cur := by simp [readCell]
@[simp] theorem readCell_buf0 (s : State) (row col : Int) : (readCell s row col).buf0 = s.buf0 := by simp [readCell]
@[simp] theorem readCell_buf1 (s : State) (row col : Int) : (readCell s row col).buf1 = s.buf1 := by simp [readCell]
@[simp] theorem readCell_dec (s : State) (row col : Int) : (readCell s row col).dec = s.dec := by simp [readCell]
@[simp] theorem readCell_rspq (s : State) (row col : Int) : (readCell s row col).rspq = s.rspq ++ [cellWord (cell s s.cur row col)] :=
  by simp [readCell]
@[simp] theorem readCell_taken (s : State) (row col : Int) : (readCell s row col).taken = s.taken :=
  by simp [readCell]
@[simp] theorem readCell_uninitRead (s : State) (row col : Int) : (readCell s row col).uninitRead = (s.uninitRead || !s.written s.cur (cellAddr s.cfgreg row col).1) :=
  by simp [readCell]
@[simp] theorem readCell_epoch (s : State) (row col : Int) : (readCell s row col).epoch = s.epoch :=
  by simp [readCell]
@[simp] theorem readCell_capacity (s : State) (row col : Int) : (readCell s row col).capacity = s.capacity :=
  by simp [readCell]
@[simp] theorem readCell_host (s : State) (row col : Int) : (readCell s row col).host = s.host := by simp [readCell]

@[simp] theorem advance_cfgd (s : State) : (advance s).cfgd = s.cfgd := by simp [advance]
@[simp] theorem advance_fatal (s : State) : (advance s).fatal = s.fatal := by simp [advance]
@[simp] theorem advance_cause (s : State) : (advance s).cause = s.cause := by simp [advance]
@[simp] theorem advance_cfgreg (s : State) : (advance s).cfgreg = s.cfgreg := by simp [advance]
@[simp] theorem advance_cur (s : State) : (advance s).cur = !s.cur := by simp [advance]
@[simp] theorem advance_dec (s : State) : (advance s).dec = s.dec := by simp [advance]
@[simp] theorem advance_rspq (s : State) : (advance s).rspq = s.rspq := by simp [advance]
@[simp] theorem advance_taken (s : State) : (advance s).taken = s.taken := by simp [advance]
@[simp] theorem advance_uninitRead (s : State) : (advance s).uninitRead = (s.uninitRead || !s.seeded) :=
  by simp [advance]
@[simp] theorem advance_epoch (s : State) : (advance s).epoch = s.epoch := by simp [advance]
@[simp] theorem advance_capacity (s : State) : (advance s).capacity = s.capacity := by simp [advance]
@[simp] theorem advance_host (s : State) : (advance s).host = s.host := by simp [advance]
@[simp] theorem buf_setBuf (b b' : Bool) (m : Memory) (s : State) :
    (s.setBuf b m).buf b' = if b' = b then m else s.buf b' := by
  cases b <;> cases b' <;> rfl

@[simp] theorem buf_respond (v : Word) (s : State) (b : Bool) : (respond v s).buf b = s.buf b := rfl

@[simp] theorem buf_recordUninit (bad : Bool) (s : State) (b : Bool) : (recordUninit bad s).buf b = s.buf b := rfl

@[simp] theorem buf_swapBuffers (s : State) (b : Bool) : (swapBuffers s).buf b = s.buf b := rfl

@[simp] theorem buf_takeResponse (s : State) (b : Bool) : (takeResponse s).buf b = s.buf b := rfl

@[simp] theorem buf_raiseFatal (c : Cause) (s : State) (b : Bool) : (raiseFatal c s).buf b = s.buf b := by
  simp [State.buf]

@[simp] theorem buf_readCell (s : State) (row col : Int) (b : Bool) : (readCell s row col).buf b = s.buf b := rfl

@[simp] theorem buf_construct (g : CfgReg) (s : State) (b : Bool) : (construct g s).buf b = [] := by
  cases b <;> rfl

@[simp] theorem buf_resetTransition (s : State) (b : Bool) : (resetTransition s).buf b = [] := by
  cases b <;> rfl

/-- A response is appended to the response words of the run. -/
@[simp] theorem responses_respond (v : Word) (s : State) : (respond v s).responses = s.responses ++ [v] := by
  simp [State.responses]

/-- Taking a response changes no response word of the run (rule R393). -/
@[simp] theorem responses_takeResponse (s : State) : (takeResponse s).responses = s.responses := by
  unfold State.responses; cases h : s.rspq <;> simp [h]

/-- Raising an error responds nothing. -/
@[simp] theorem responses_raiseFatal (c : Cause) (s : State) : (raiseFatal c s).responses = s.responses := by
  simp [State.responses]

@[simp] theorem responses_resetTransition (s : State) : (resetTransition s).responses = [] := rfl

end Sys2Proof.Machine
end

