-- ==== Sys2Proof/Laws/Exec.lean ====
section
/-! SUPPORT. What each meaning can answer, said once: a gated command changes nothing, a failing one only raises its
cause, and a completed one has the effect of its operation. -/

namespace Sys2Proof.Machine

@[simp] theorem raiseFatal_of_fatal {c : Cause} {s : State} (h : s.fatal = true) : raiseFatal c s = s := by
  simp [raiseFatal, h]

theorem execCfg_cases {strat : BitVec 2} {log2w log2l : BitVec 4} {pm1 : BitVec 16} {rows cols : BitVec 32}
    {rsv : CfgReserved} {p : List Word} {s t : State}
    (h : execCfg strat log2w log2l pm1 rows cols rsv p s = .next t) :
    (s.fatal = true ∧ t = s) ∨ (s.fatal = false ∧ ∃ c, t = raiseFatal c s) ∨
    (s.fatal = false ∧ s.cfgd = false ∧ paramsLegal strat log2w log2l rows cols = true ∧
      cols.toNat % 2 ^ log2w.toNat = 0 ∧ storageBits strat rows cols ≤ s.capacity ∧
      t = construct ⟨rows, cols, log2w, strat, log2l, pm1.setWidth 17 + 1⟩ s) := by
  unfold execCfg failCommand at h
  repeat' split at h
  all_goals
    cases h
    first
      | exact .inl ⟨‹_›, rfl⟩
      | exact .inr (.inl ⟨by simp_all, _, rfl⟩)
      | exact .inr (.inr (by simp_all))

theorem execFill_cases {row chunk : BitVec 32} {rsv : BitVec 48} {p : List Word} {s t : State}
    (h : execFill row chunk rsv p s = .next t) :
    (s.fatal = true ∧ t = s) ∨ (s.fatal = false ∧ ∃ c, t = raiseFatal c s) ∨
    (s.fatal = false ∧ s.cfgd = true ∧ p.length = s.cfgreg.NP ∧
      t = fillChunk s (coord row) (coord chunk) (assemblePayload s.cfgreg.W p)) := by
  unfold execFill failCommand at h
  repeat' split at h
  all_goals
    cases h
    first
      | exact .inl ⟨‹_›, rfl⟩
      | exact .inr (.inl ⟨by simp_all, _, rfl⟩)
      | exact .inr (.inr (by simp_all))

theorem execRdbit_cases {row col : BitVec 32} {rsv : BitVec 48} {p : List Word} {s t : State}
    (h : execRdbit row col rsv p s = .next t) :
    (s.fatal = true ∧ t = respond errorWord s) ∨
    (s.fatal = false ∧ ∃ c, t = respond errorWord (raiseFatal c s)) ∨
    (s.fatal = false ∧ s.cfgd = true ∧ t = readCell s (coord row) (coord col)) := by
  unfold execRdbit failRead at h
  repeat' split at h
  all_goals
    cases h
    first
      | exact .inl ⟨‹_›, rfl⟩
      | exact .inr (.inl ⟨by simp_all, _, rfl⟩)
      | exact .inr (.inr (by simp_all))

theorem execStep_cases {rsv : BitVec 48} {h1 : Word} {p : List Word} {s t : State}
    (h : execStep rsv h1 p s = .next t) :
    (s.fatal = true ∧ t = s) ∨ (s.fatal = false ∧ ∃ c, t = raiseFatal c s) ∨
    (s.fatal = false ∧ s.cfgd = true ∧ t = advance s) := by
  unfold execStep failCommand at h
  repeat' split at h
  all_goals
    cases h
    first
      | exact .inl ⟨‹_›, rfl⟩
      | exact .inr (.inl ⟨by simp_all, _, rfl⟩)
      | exact .inr (.inr (by simp_all))

theorem execStat_cases {rsv : BitVec 48} {h1 : Word} {p : List Word} {s t : State}
    (h : execStat rsv h1 p s = .next t) :
    t = respond (statusWord s) s ∨
    (s.fatal = false ∧ ∃ c, t = respond (statusWord (raiseFatal c s)) (raiseFatal c s)) := by
  unfold execStat checkStat at h
  repeat' split at h
  all_goals
    cases h
    first
      | exact .inl rfl
      | exact .inr ⟨by simp_all, _, rfl⟩

/-- A FILL leaves every field but the current buffer alone. -/
theorem fillChunk_eq (s : State) (row chunk : Int) (v : BitVec s.cfgreg.W) :
    ∃ m, fillChunk s row chunk v = s.setBuf s.cur m := by
  unfold fillChunk State.gwrite
  split
  · exact ⟨_, rfl⟩
  · exact ⟨_, rfl⟩

/-- A STEP's fields: the next buffer filled, the roles swapped, the UNINIT_READ record; nothing else. -/
theorem advance_eq (s : State) :
    advance s = { (s.setBuf (!s.cur) (nextBuffer s)) with
      cur := !s.cur, uninitRead := s.uninitRead || !s.seeded } := by
  cases hc : s.cur <;> simp [advance, swapBuffers, State.setBuf, recordUninit, hc]

/-- The current buffer is read-only for the whole step (rules R282, R286). -/
theorem buf_advance (s : State) (b : Bool) :
    (advance s).buf b = if b = (!s.cur) then nextBuffer s else s.buf b := by
  unfold advance; simp

end Sys2Proof.Machine
end

