-- ==== Sys2Proof/Laws/Memory.lean ====
section
/-! SUPPORT. The laws of one buffer: a read after a write, the canonical form, and what a series of writes leaves. -/

namespace Sys2Proof.Machine

/-- The empty buffer is canonical. -/
@[simp] theorem Memory.wf_nil : Memory.wf [] := List.Pairwise.nil

/-- A write sets its own element and leaves every other element alone, in any list. -/
theorem Memory.read_write (m : Memory) (i j : Nat) (v : GridWord) :
    (m.write i v).read j = if i = j then some v else m.read j := by
  induction m with
  | nil => by_cases h : i = j <;> simp [Memory.write, Memory.read, h]
  | cons e m ih =>
    obtain ⟨k, x⟩ := e
    simp only [Memory.write]
    split
    · by_cases h : i = j <;> simp [Memory.read, h]
    · split
      · subst_vars; by_cases h : k = j <;> simp [Memory.read, h]
      · rename_i h1 h2
        simp only [Memory.read, ih]
        by_cases hkj : k = j
        · subst hkj; simp [h2]
        · simp [hkj]

/-- The entries after a write: the one written, or one that was there. -/
theorem Memory.mem_write {m : Memory} {i : Nat} {v : GridWord} {e : Nat × GridWord} (h : e ∈ m.write i v) :
    e = (i, v) ∨ e ∈ m := by
  induction m with
  | nil => simpa [Memory.write] using h
  | cons a m ih =>
    obtain ⟨k, x⟩ := a
    simp only [Memory.write] at h
    split at h
    · simpa using h
    · split at h
      · simp only [List.mem_cons] at h ⊢; tauto
      · simp only [List.mem_cons] at h ⊢
        rcases h with h | h
        · exact .inr (.inl h)
        · exact (ih h).imp id .inr

/-- A write keeps the canonical form. -/
theorem Memory.wf_write {m : Memory} (i : Nat) (v : GridWord) (h : Memory.wf m) : Memory.wf (m.write i v) := by
  induction m with
  | nil => simp [Memory.write, Memory.wf]
  | cons e m ih =>
    obtain ⟨k, x⟩ := e
    simp only [Memory.wf, List.map_cons, List.pairwise_cons, List.mem_map, forall_exists_index, and_imp] at h ih ⊢
    simp only [Memory.write]
    split
    · rename_i hik
      simp only [List.map_cons, List.pairwise_cons, List.mem_cons, List.mem_map]
      refine ⟨?_, ?_, h.2⟩
      · rintro a (rfl | ⟨p, hp, rfl⟩)
        · exact hik
        · exact hik.trans (h.1 _ p hp rfl)
      · rintro a ⟨p, hp, rfl⟩; exact h.1 _ p hp rfl
    · split
      · rename_i hik
        subst hik
        simp only [List.map_cons, List.pairwise_cons, List.mem_map]
        refine ⟨?_, h.2⟩
        rintro a ⟨p, hp, rfl⟩; exact h.1 _ p hp rfl
      · rename_i h1 h2
        simp only [List.map_cons, List.pairwise_cons, List.mem_map]
        refine ⟨?_, ih h.2⟩
        rintro a ⟨p, hp, rfl⟩
        rcases Memory.mem_write hp with rfl | hp
        · simp only; omega
        · exact h.1 _ p hp rfl

/-- In a canonical list an entry is what its element reads as. -/
theorem Memory.read_of_mem {m : Memory} (hwf : Memory.wf m) {i : Nat} {v : GridWord} (h : (i, v) ∈ m) :
    m.read i = some v := by
  induction m with
  | nil => simp at h
  | cons e m ih =>
    obtain ⟨k, x⟩ := e
    simp only [Memory.wf, List.map_cons, List.pairwise_cons, List.mem_map, forall_exists_index, and_imp] at hwf ih
    rcases List.mem_cons.1 h with h | h
    · cases h; simp [Memory.read]
    · have hki : k < i := hwf.1 _ _ h rfl
      simp [Memory.read, Nat.ne_of_lt hki, ih hwf.2 h]

/-- What an element reads as is an entry of the list. -/
theorem Memory.mem_of_read {m : Memory} {i : Nat} {v : GridWord} (h : m.read i = some v) : (i, v) ∈ m := by
  induction m with
  | nil => simp [Memory.read] at h
  | cons e m ih =>
    obtain ⟨k, x⟩ := e
    simp only [Memory.read] at h
    split at h
    · rename_i hk; cases h; simp [hk]
    · exact List.mem_cons_of_mem _ (ih h)

variable {α : Type}

/-- A series of writes keeps the canonical form. -/
theorem Memory.wf_foldl_write (l : List α) (key : α → Nat) (val : α → GridWord) {m : Memory} (h : Memory.wf m) :
    Memory.wf (l.foldl (fun m a => m.write (key a) (val a)) m) := by
  induction l generalizing m with
  | nil => exact h
  | cons a l ih => exact ih (Memory.wf_write _ _ h)

/-- The entries after a series of writes: those written, or those that were there. -/
theorem Memory.mem_foldl_write {l : List α} {key : α → Nat} {val : α → GridWord} {m : Memory} {e : Nat × GridWord}
    (h : e ∈ l.foldl (fun m a => m.write (key a) (val a)) m) : (∃ a ∈ l, e = (key a, val a)) ∨ e ∈ m := by
  induction l generalizing m with
  | nil => exact .inr h
  | cons a l ih =>
    rcases ih h with ⟨b, hb, rfl⟩ | h
    · exact .inl ⟨b, List.mem_cons_of_mem _ hb, rfl⟩
    · exact (Memory.mem_write h).imp (fun h => ⟨a, List.mem_cons_self, h⟩) id

/-- An element no write of the series names reads as before. -/
theorem Memory.read_foldl_write_other {l : List α} {key : α → Nat} {val : α → GridWord} (m : Memory) {i : Nat}
    (h : ∀ a ∈ l, key a ≠ i) : (l.foldl (fun m a => m.write (key a) (val a)) m).read i = m.read i := by
  induction l generalizing m with
  | nil => rfl
  | cons a l ih =>
    rw [List.foldl_cons, ih _ fun b hb => h b (List.mem_cons_of_mem _ hb), Memory.read_write,
      if_neg (h a List.mem_cons_self)]

/-- An element the series writes, with one value by all writes that name it, reads as that value, in whatever order the
writes stand. -/
theorem Memory.read_foldl_write_same {l : List α} {key : α → Nat} {val : α → GridWord} (m : Memory) {i : Nat}
    {v : GridWord} (hex : ∃ a ∈ l, key a = i) (hval : ∀ a ∈ l, key a = i → val a = v) :
    (l.foldl (fun m a => m.write (key a) (val a)) m).read i = some v := by
  induction l generalizing m with
  | nil => simp at hex
  | cons a l ih =>
    rw [List.foldl_cons]
    by_cases hl : ∃ b ∈ l, key b = i
    · exact ih _ hl fun b hb => hval b (List.mem_cons_of_mem _ hb)
    · simp only [not_exists, not_and] at hl
      obtain ⟨b, hb, hbi⟩ := hex
      rcases List.mem_cons.1 hb with rfl | hb
      · rw [Memory.read_foldl_write_other _ hl, Memory.read_write, if_pos hbi, hval b List.mem_cons_self hbi]
      · exact absurd hbi (hl b hb)

end Sys2Proof.Machine
end

