-- ==== Sys2Proof/Laws/PerInstr.lean ====
section
/-! SUPPORT. A law of every constructor of Instr as syntax: the words of a well-formed command are framed whole. -/

namespace Sys2Proof.Laws.Framed

/-- The words of a well-formed command, whatever follows them, split off as its H0, H1 and exactly its payload
(rules R80, R85). -/
def Statement (i : Instr) : Prop :=
  i.wellFormed = true → ∀ rest : List Word, ∃ h0 h1,
    encode i = h0 :: h1 :: i.payload ∧ splitCommand (encode i ++ rest) = some (h0, h1, i.payload, rest)

/-- Every header the encoder builds frames its payload. -/
theorem frame (body : BitVec 48) (h1 : Word) (p : List Word) (opc : BitVec 8) (rest : List Word) (h : p.length ≤ 255) :
    splitCommand (headerWord body p opc :: h1 :: p ++ rest) = some (headerWord body p opc, h1, p, rest) :=
  Machine.splitCommand_append rest (lenField_headerWord body opc h).symm

theorem cfg (strat : BitVec 2) (log2w log2l : BitVec 4) (pm1 : BitVec 16) (rows cols : BitVec 32) (rsv : CfgReserved)
    (p : List Word) : Statement (.cfg strat log2w log2l pm1 rows cols rsv p) :=
  fun h rest => ⟨_, _, rfl, frame _ _ _ _ rest (of_decide_eq_true h)⟩

theorem fill (row chunk : BitVec 32) (rsv : BitVec 48) (p : List Word) : Statement (.fill row chunk rsv p) :=
  fun h rest => ⟨_, _, rfl, frame _ _ _ _ rest (of_decide_eq_true h)⟩

theorem rdbit (row col : BitVec 32) (rsv : BitVec 48) (p : List Word) : Statement (.rdbit row col rsv p) :=
  fun h rest => ⟨_, _, rfl, frame _ _ _ _ rest (of_decide_eq_true h)⟩

theorem step (rsv : BitVec 48) (h1 : Word) (p : List Word) : Statement (.step rsv h1 p) :=
  fun h rest => ⟨_, _, rfl, frame _ _ _ _ rest (of_decide_eq_true h)⟩

theorem stat (rsv : BitVec 48) (h1 : Word) (p : List Word) : Statement (.stat rsv h1 p) :=
  fun h rest => ⟨_, _, rfl, frame _ _ _ _ rest (of_decide_eq_true h)⟩

end Sys2Proof.Laws.Framed
end

