-- ==== Sys2Proof/Tests/Slice0.lean ====
section
/-! SUPPORT. Tests whose expected values stand in spec/ (30_encoding.md section 7, 95_test_vectors.md), and for every
statement with hypotheses a named witness that meets them all. -/

namespace Sys2Proof.Tests

open Sys2Proof.Machine

/-! ## Well-formedness: the one check, refused on an ill-formed term of every constructor -/

theorem test_wellFormed_refuses_long_payloads :
    (Instr.cfg 0 3 3 0 5 8 ⟨0, 0, 0⟩ (List.replicate 256 0)).wellFormed = false ∧
    (Instr.fill 0 0 0 (List.replicate 256 0)).wellFormed = false ∧
    (Instr.rdbit 0 0 0 (List.replicate 256 0)).wellFormed = false ∧
    (Instr.step 0 0 (List.replicate 256 0)).wellFormed = false ∧
    (Instr.stat 0 0 (List.replicate 256 0)).wellFormed = false := by decide +kernel

theorem test_wellFormed_accepts_255_payload_words :
    (Instr.stat 0 0 (List.replicate 255 0)).wellFormed = true := by decide +kernel

/-! ## Decoding: words written out field by field from rules R81 and R83 -/

/-- V-ENC-2: PM1 = 3 in H0[47:32], LOG2L = 6 in H0[27:24], LOG2W = 7 in H0[23:20]; C = 128 above R = 16 in H1. -/
theorem test_decode_cfg : decode [0x0000000306700001, 0x0000008000000010] =
    .ok (.cfg 0 7 6 3 16 128 ⟨0, 0, 0⟩ [], []) := by decide

/-- The reserved fields of CFG: H0[63:48] = 0xABCD, H0[31:28] = 5, H0[19:18] = 2, beside STRAT = 1. -/
theorem test_decode_cfg_reserved : decode [0xABCD000053390001, 0x0000000800000005] =
    .ok (.cfg 1 3 3 0 5 8 ⟨2, 5, 0xABCD⟩ [], []) := by decide

/-- V-ENC-5: LEN = 2, P_0 before P_1; a STEP's words follow and are left over. -/
theorem test_decode_fill : decode [0x0000000000000202, 0x0000000000000001, 0xC000000000000000, 0x0000000000000001, 4, 0] =
    .ok (.fill 1 0 0 [0xC000000000000000, 1], [4, 0]) := by decide

/-- V-ENC-7: ROW = 1 in H1[31:0], COL = 63 in H1[63:32]. -/
theorem test_decode_rdbit : decode [0x0000000000000003, 0x0000003F00000001] = .ok (.rdbit 1 63 0 [], []) := by decide

/-- V-ENC-8, with a reserved bit of H0 and H1 set. -/
theorem test_decode_step : decode [0x0000000000010004, 0x0000000000000001] = .ok (.step 1 1 [], []) := by decide

/-- V-ENC-11: a STAT with LEN = 1 has three words. -/
theorem test_decode_stat : decode [0x0000000000000105, 0, 0] = .ok (.stat 0 0 [0], []) := by decide

/-- V-ENC-10 and rule R85: opcode 0x00 is rejected by name, and a command without its payload is incomplete. -/
theorem test_decode_rejects : decode [0, 0] = .error (.illegalOpcode 0) ∧ decode [6, 0] = .error (.illegalOpcode 6) ∧
    decode [0x0000000000000102, 0] = .error .incomplete := by decide

/-- Rule R55: byte 0 of a channel word is bits 7:0. -/
theorem test_bytes : wordToBytes 0x0807060504030201 = [1, 2, 3, 4, 5, 6, 7, 8] := by decide

/-- Rule R93: a line with an optional operand and a comment. -/
theorem test_readLine : readLine ['C', 'F', 'G', ' ', 'R', '=', '4', ',', ' ', 'C', '=', '1', '6', ',', ' ', 'W', '=',
      '0', 'x', '1', '0', ',', ' ', 'S', 'T', 'R', 'A', 'T', '=', 'n', 'i', 'b', ' ', ';', 'c'] =
    some (some (.cfg 4 16 16 1 16 1)) := by decide +kernel

/-- 95_test_vectors.md, P4 line 3: an underscore between hexadecimal digits. -/
theorem test_readLine_underscore : readLine ['F', 'I', 'L', 'L', ' ', '1', ',', ' ', '0', ',', ' ', '0', 'x', '1', '_', 'C', '0', '0', '0', '0',
      '0', '0', '0', '0', '0', '0', '0', '0', '0', '0', '0'] =
    some (some (.fill 1 0 0x1C000000000000000)) := by decide +kernel

/-! ## Small states -/

/-- An engine constructed with R, C, LOG2W, STRAT, LOG2L, P and one generation in buf[0], by element. -/
def engine (rows cols : BitVec 32) (log2w : BitVec 4) (strat : BitVec 2) (log2l : BitVec 4) (p : BitVec 17)
    (words : List GridWord) : State :=
  { State.reset with cfgd := true, cfgreg := ⟨rows, cols, log2w, strat, log2l, p⟩,
                     buf0 := words.zipIdx.map fun e => (e.2, e.1) }

/-- `CFG R=5, C=8, W=8` with the blinker of V-STEP-1. -/
def blinker : State := engine 5 8 3 0 3 1 [0x00, 0x08, 0x08, 0x08, 0x00]

/-- The block over the four corners of P3: R=4, C=16, W=16 under STRAT 1. -/
def cornersNib : State :=
  engine 4 16 4 1 4 1 [0x0001, 0, 0, 0x1000, 0, 0, 0, 0, 0, 0, 0, 0, 0x0001, 0, 0, 0x1000]

/-- The same block under STRAT 0 (V-STEP-5). -/
def cornersCsc : State := engine 4 16 4 0 4 1 [0x8001, 0x0000, 0x0000, 0x8001]

/-- P4: R=3, C=128, W=128, L=64, three workers. -/
def lanes : State := engine 3 128 7 0 6 3 [0, 0x1C000000000000000, 0]

/-- `CFG R=2, C=8, W=8` with row 1 never filled (V-FILL-8). -/
def halfSeeded : State := engine 2 8 3 0 3 1 [0xFF]

/-- An engine whose first error was DIM_NOT_MULTIPLE (P5). -/
def failed : State := { State.reset with fatal := true, cause := 0x01 }

/-- What a test looks at in an outcome. -/
def after {α : Type} (o : Host.Outcome State Fault Refusal) (f : State → α) : Option α :=
  match o with
  | .next t => some (f t)
  | .fault _ => none
  | .refused _ => none

/-! ## Commands -/

/-- V-CMD-2. -/
theorem test_cfg_constructs : after (exec (.cfg 0 3 3 0 5 8 ⟨0, 0, 0⟩ []) State.reset) (fun t => (statusWord t, t.cfgreg)) =
    some (0x0000000000000001, ⟨5, 8, 3, 0, 3, 1⟩) := by decide

/-- V-CMD-14 and V-CMD-15: 1024 bits do not fit 1000 and fit 1024. -/
theorem test_cfg_capacity :
    after (exec (.cfg 0 3 3 0 32 16 ⟨0, 0, 0⟩ []) (State.resetWith 1000)) statusWord = some 0x0000000000000202 ∧
    after (exec (.cfg 0 3 3 0 32 16 ⟨0, 0, 0⟩ []) (State.resetWith 1024)) statusWord = some 0x0000000000000001 := by decide

/-- V-FILL-5: row -4 mod 5 is 1, chunk 1 mod 1 is 0. -/
theorem test_fill_wraps : after (exec (.fill (-4) 1 0 [0x10]) blinker) (·.buf0) =
    some [(0, 0x00), (1, 0x10), (2, 0x08), (3, 0x08), (4, 0x00)] := by decide +kernel

/-- V-FILL-6: one cell in each of the four words of a chunk under STRAT 1. -/
theorem test_fill_nibbles :
    after (exec (.fill 0 0 0 [0x8421]) (engine 1 16 4 1 4 1 [])) (·.buf0) =
      some [(0, 0x0001), (1, 0x0010), (2, 0x0100), (3, 0x1000)] := by decide +kernel

/-- V-FILL-3: row 6 mod 5 is 1, column -5 mod 8 is 3. -/
theorem test_rdbit_wraps : after (exec (.rdbit 6 (-5) 0 []) blinker) (·.rspq) = some [0x0000000000000001] := by decide +kernel

/-- V-CMD-17: before CFG the RDBIT responds the error word and STATUS becomes 0x502. -/
theorem test_rdbit_unconfigured : after (exec (.rdbit 0 0 0 []) State.reset) (fun t => (t.rspq, statusWord t)) =
    some ([0x8000000000000000], 0x0000000000000502) := by decide

/-- V-STEP-1, run as a command placed on the channel. -/
theorem test_step_blinker : after (step (placeCommand [4, 0] blinker)) (fun t => (t.buf1, t.cur, t.uninitRead)) =
    some ([(0, 0x00), (1, 0x00), (2, 0x1C), (3, 0x00), (4, 0x00)], true, false) := by decide +kernel

/-- P4: the blinker across the lane boundary, with three workers. -/
theorem test_step_lanes : after (exec (.step 0 0 []) lanes) (·.buf1) =
    some [(0, 0x8000000000000000), (1, 0x8000000000000000), (2, 0x8000000000000000)] := by decide +kernel

/-- P5: STATUS of the failed engine. -/
theorem test_stat_fatal : after (exec (.stat 0 0 []) failed) (·.rspq) = some [0x0000000000000102] := by decide

/-- V-CMD-13: the all-zero command is illegal. -/
theorem test_illegal_opcode : after (step (placeCommand [0, 0] State.reset)) statusWord = some 0x0000000000000602 := by
  decide

/-! ## The datapath -/

/-- V-ADDR rows 7 and 8, configurations A and B. -/
theorem test_cellAddr :
    cellAddr ⟨4, 16, 3, 0, 3, 1⟩ 5 (-17) = (3, 7) ∧ cellAddr ⟨4, 16, 4, 1, 4, 1⟩ 5 (-17) = (7, 12) ∧
    cellAddr ⟨4, 16, 3, 0, 3, 1⟩ (-2 ^ 31) (2 ^ 31 - 1) = (1, 7) ∧
    cellAddr ⟨4, 16, 4, 1, 4, 1⟩ (-2 ^ 31) (2 ^ 31 - 1) = (3, 12) := by decide

/-- V-SHIFT-1 row f and V-SHIFT-3 row a. -/
theorem test_shiftScalar :
    shiftScalar 1 .minus (0xA5#8) 0x5A 0x5A = 0x4A ∧ shiftScalar 1 .plus (0xA5#8) 0x5A 0x5A = 0x52 ∧
    shiftScalar 4 .minus (0x1001#16) 0x1000 0x0001 = 0x0011 ∧
    shiftScalar 4 .plus (0x1001#16) 0x1000 0x0001 = 0x1100 := by decide

/-- V-SHIFT-4 rows a, d, f and g: the carry across the lane boundary. -/
theorem test_shiftVector :
    shiftVector 64 1 .minus (0x8000000000000000#128) 0 0 = 0x10000000000000000 ∧
    shiftVector 64 1 .plus (0x10000000000000000#128) 0 0 = 0x8000000000000000 ∧
    shiftVector 64 1 .plus (0x80000000000000000000000000000000#128) 0 1 = 0xC0000000000000000000000000000000 ∧
    shiftVector 64 4 .minus (0x1000000000000000#128) 0 0 = 0x10000000000000000 := by decide +kernel

/-- V-CSC-2 row 1 and V-RULE-2 row 2. -/
theorem test_csc : csc [0xFF#8, 0xFE, 0xFC, 0xF8, 0xF0, 0xE0, 0xC0, 0x80] = ⟨0x55, 0x66, 0xF8⟩ ∧
    evalRule ⟨0x55#8, 0x66, 0xF8⟩ 0xFF = 0x06 := by decide

/-- V-NIB-1 and V-NIB-2. -/
theorem test_nib : nib (List.replicate 8 (0x1111#16)) = ⟨0, 0, 0⟩ ∧
    nib [0x1111#16, 0x0111, 0x0011, 0x0001, 0, 0, 0, 0] = ⟨0x1010, 0x0110, 0x0001⟩ := by decide +kernel

/-- V-STEP-3: with R = 1 the three rows are one. -/
theorem test_step_one_row : after (exec (.step 0 0 []) (engine 1 8 3 0 3 1 [0x07])) (·.buf1) = some [(0, 0x88)] := by
  decide +kernel

/-! ## Witnesses: a concrete state and operands that meet the hypotheses of each statement -/

theorem witness_inv_blinker : blinker.Inv where
  sorted := by decide
  causeKnown := by decide
  causeNone := by decide
  decPartial := by decide
  unconfigured := by decide
  configured := fun _ => ⟨⟨by decide, by decide, by decide, by decide, by decide, by decide, by decide, by decide,
    by decide, by decide⟩, by decide⟩
  stored := by decide +kernel

theorem witness_inv_cornersNib : cornersNib.Inv where
  sorted := by decide
  causeKnown := by decide
  causeNone := by decide
  decPartial := by decide
  unconfigured := by decide
  configured := fun _ => ⟨⟨by decide, by decide, by decide, by decide, by decide, by decide, by decide, by decide,
    by decide, by decide⟩, by decide⟩
  stored := by decide +kernel

theorem witness_inv_cornersCsc : cornersCsc.Inv where
  sorted := by decide
  causeKnown := by decide
  causeNone := by decide
  decPartial := by decide
  unconfigured := by decide
  configured := fun _ => ⟨⟨by decide, by decide, by decide, by decide, by decide, by decide, by decide, by decide,
    by decide, by decide⟩, by decide⟩
  stored := by decide +kernel

theorem witness_seeded : blinker.seeded = true ∧ cornersNib.seeded = true ∧ cornersCsc.seeded = true ∧
    lanes.seeded = true := by decide +kernel

/-- DecodeOfEncodeIsTheCommand. -/
theorem witness_DecodeOfEncode : (Instr.fill 1 0 0 [8]).wellFormed = true := by decide

/-- EncodeOfDecodeIsTheWords. -/
theorem witness_EncodeOfDecode : decode [0x102, 1, 8, 4] = .ok (.fill 1 0 0 [8], [4]) := by decide

/-- ByteTransportIsLittleEndian: the last byte. -/
theorem witness_ByteTransport : 7 < 8 := by decide

/-- StepExecutesTheDecodedCommand: the header of a FILL already in DEC, the rest on the channel. -/
theorem witness_StepExecutes : let s : State := { blinker with dec := [0x102, 1], host := [.word 8, .take] }
    s.host = sendWords (8 :: []) ++ [.take] ∧ decode (s.dec ++ (8 :: [])) = .ok (.fill 1 0 0 [8], []) := by decide

/-- IllegalOpcodeIsConsumedAndFatal: opcode 0x00 whole on the channel of an engine not fatal; opcode 0x06 with LEN = 1, its
first two words in DEC, in a fatal engine. -/
theorem witness_IllegalOpcode :
    (let s : State := { blinker with host := sendWords [0, 0] ++ [.reset] }
     s.fatal = false ∧ s.host = sendWords (0 :: [0]) ++ [.reset] ∧ s.dec ++ (0 :: [0]) = 0 :: 0 :: [] ∧
       ([] : List Word).length = lenField 0 ∧ (0#64).toNat % 256 = 0) ∧
    (let s : State := { failed with dec := [0x106, 1], host := [.word 5, .take] }
     s.fatal = true ∧ s.host = sendWords (5 :: []) ++ [.take] ∧ s.dec ++ (5 :: []) = 0x106 :: 1 :: [5] ∧
       [5#64].length = lenField 0x106 ∧ 5 < (0x106#64).toNat % 256) := by decide

/-- PartialCommandOnlyWaits: H0 of a FILL alone, then nothing; and an idle engine. -/
theorem witness_PartialCommand : let s : State := { blinker with host := sendWords (0x102 :: []) ++ [.reset] }
    s.host = sendWords (0x102 :: []) ++ [.reset] ∧ (leadingWords [.reset]).1 = [] ∧
    splitCommand (s.dec ++ (0x102 :: [])) = none ∧ blinker.host = [] ∧ splitCommand blinker.dec = none := by decide

/-- CommandsLeaveTheChannelAlone. -/
theorem witness_CommandsLeave : exec (.stat 0 0 []) blinker = .next (respond (statusWord blinker) blinker) := rfl

/-- TakingAResponseRemovesTheOldest. -/
theorem witness_TakingAResponse : let s : State := { blinker with host := [.take], rspq := [1, 0] }
    s.host = .take :: [] ∧ s.rspq = 1 :: [0] := by decide

/-- Rules R385, R393: the host takes the oldest word, and the response sequence stays as it was. -/
theorem test_takeResponse : after (step { blinker with host := [.take], rspq := [1, 0] }) (fun t => (t.rspq, t.responses)) =
    some ([0], [1, 0]) := by decide

/-- TakingResponsesDoesNotChangeTheYield: a take between the words of a STAT and another after it. -/
theorem witness_TakingResponses : let s : State := { blinker with host := [.word 5, .take, .word 0, .take] }
    s.Inv ∧ s.host.filter (· != .take) = [.word 5, .word 0] :=
  ⟨⟨witness_inv_blinker.sorted, witness_inv_blinker.causeKnown, witness_inv_blinker.causeNone,
    witness_inv_blinker.decPartial, witness_inv_blinker.unconfigured, witness_inv_blinker.configured,
    witness_inv_blinker.stored⟩, by decide⟩

/-- ResetInputSetsTheResetState, in a fatal state. -/
theorem witness_ResetInput : ({ failed with host := [.reset] } : State).host = .reset :: [] := by decide

/-- FirstErrorByPrecedenceIsReported: a FILL with LEN = 2 on an engine with W = 8; and a fatal engine. -/
theorem witness_FirstError : [1#64, 2].length = lenField 0x202 ∧ blinker.fatal = false ∧ blinker.cause = 0 ∧
    firstError 0x202 0 1 blinker = some .badLength ∧ firstError 0x102 0 1 blinker = none ∧ failed.fatal = true := by decide

/-- FailingCommandHasNoOtherEffect: a second CFG. -/
theorem witness_FailingCommand : blinker.fatal = false ∧
    exec (.cfg 0 3 3 0 5 8 ⟨0, 0, 0⟩ []) blinker = .next (raiseFatal .alreadyConfigured blinker) ∧
    (raiseFatal .alreadyConfigured blinker).fatal = true := ⟨rfl, rfl, rfl⟩

/-- GateDecidesWhatRuns: one command in each of its clauses (illegal; fatal RDBIT, STAT, STEP; executed; unconfigured STEP). -/
theorem witness_Gate : ((0x06#64).toNat % 256 = 0 ∨ 5 < (0x06#64).toNat % 256) ∧ failed.fatal = true ∧
    (3#64).toNat % 256 = 3 ∧ (5#64).toNat % 256 = 5 ∧ (4#64).toNat % 256 = 4 ∧ blinker.fatal = false ∧
    State.reset.cfgd = false ∧ State.reset.fatal = false ∧ 2 ≤ (4#64).toNat % 256 ∧ (4#64).toNat / 2 ^ 16 = 0 := by decide

/-- OnlyResetLeavesTheFatalState: an idle step and a reset. -/
theorem witness_OnlyReset : failed.fatal = true ∧ step failed = .next failed ∧
    step { failed with host := [.reset] } = .next (resetTransition { failed with host := [] }) := ⟨rfl, rfl, rfl⟩

/-- ConstructionErrorsComeFromCfgOnly: `CFG R=5, C=12, W=8`. -/
theorem witness_ConstructionErrors :
    exec (.cfg 0 3 3 0 5 12 ⟨0, 0, 0⟩ []) State.reset = .next (raiseFatal .dimNotMultiple State.reset) ∧
    State.reset.fatal = false ∧ (raiseFatal .dimNotMultiple State.reset).fatal = true ∧
    (raiseFatal .dimNotMultiple State.reset).cause = 0x01 := ⟨rfl, rfl, rfl, rfl⟩

/-- UnconfiguredCommandsFail. -/
theorem witness_Unconfigured : State.reset.cfgd = false ∧ State.reset.fatal = false := by decide

/-- CfgConstructsTheEngine: the boundary values LOG2W = 9, LOG2L = 9, one chunk a row, exactly the storage needed. -/
theorem witness_CfgConstructs : let s := State.resetWith 4096
    s.fatal = false ∧ s.cfgd = false ∧ (1#2).toNat ≤ 1 ∧ 3 ≤ (9#4).toNat ∧ (9#4).toNat ≤ 9 ∧ 3 ≤ (9#4).toNat ∧
    (9#4).toNat ≤ (9#4).toNat ∧ 1 ≤ (1#32).toNat ∧ 1 ≤ (512#32).toNat ∧ (512#32).toNat % 2 ^ (9#4).toNat = 0 ∧
    2 * (1#32).toNat * (512#32).toNat * (if (1#2) = 0 then 1 else 4) ≤ s.capacity := by decide

/-- ConstructionIsOncePerReset. -/
theorem witness_ConstructionIsOnce : blinker.cfgd = true ∧ blinker.fatal = false ∧ step blinker = .next blinker :=
  ⟨rfl, rfl, rfl⟩

/-- CfgFrame: a CFG that constructs, and one that fails. -/
theorem witness_CfgFrame :
    exec (.cfg 0 3 3 0 5 8 ⟨0, 0, 0⟩ []) State.reset = .next (construct ⟨5, 8, 3, 0, 3, 1⟩ State.reset) ∧
    exec (.cfg 0 3 3 0 5 12 ⟨0, 0, 0⟩ []) State.reset = .next (raiseFatal .dimNotMultiple State.reset) := ⟨rfl, rfl⟩

/-- CellAddrIsInRangeAndInjective: a legal configuration of each strategy. -/
theorem witness_Legal : blinker.cfgreg.Legal ∧ cornersNib.cfgreg.Legal :=
  ⟨(witness_inv_blinker.configured rfl).1, (witness_inv_cornersNib.configured rfl).1⟩

/-- FillSetsTheCellsOfItsChunk, under each strategy: the largest payload of each word width. -/
theorem witness_FillSets : (blinker.Inv ∧ blinker.Ready ∧ [0xFF#64].length = max 1 (blinker.cfgreg.W / 64) ∧
      (blinker.cfgreg.W < 64 → ([0xFF#64].headD 0).toNat < 2 ^ blinker.cfgreg.W)) ∧
    (cornersNib.Inv ∧ cornersNib.Ready ∧ [0xFFFF#64].length = max 1 (cornersNib.cfgreg.W / 64) ∧
      (cornersNib.cfgreg.W < 64 → ([0xFFFF#64].headD 0).toNat < 2 ^ cornersNib.cfgreg.W)) :=
  ⟨⟨witness_inv_blinker, ⟨rfl, rfl⟩, by decide, by decide⟩,
   ⟨witness_inv_cornersNib, ⟨rfl, rfl⟩, by decide, by decide⟩⟩

/-- SeedingFillsWriteEveryWord: an engine with one of its two rows never written, and one FILL for each. -/
theorem witness_SeedingFills : halfSeeded.Inv ∧ halfSeeded.Ready ∧ halfSeeded.seeded = false ∧
    let fills : List (BitVec 32 × BitVec 32 × List Word) := [(-1, 0, [0xFF]), (2, 5, [0])]
    (∀ f ∈ fills, f.2.2.length = max 1 (halfSeeded.cfgreg.W / 64) ∧
      (halfSeeded.cfgreg.W < 64 → (f.2.2.headD 0).toNat < 2 ^ halfSeeded.cfgreg.W)) ∧
    ∀ r < halfSeeded.cfgreg.rows, ∀ k < halfSeeded.cfgreg.cols / halfSeeded.cfgreg.W,
      ∃ f ∈ fills, f.1.toInt % halfSeeded.cfgreg.rows = r ∧
        f.2.1.toInt % ((halfSeeded.cfgreg.cols / halfSeeded.cfgreg.W : Nat) : Int) = k :=
  ⟨⟨by decide, by decide, by decide, by decide, by decide,
    fun _ => ⟨⟨by decide, by decide, by decide, by decide, by decide, by decide, by decide, by decide, by decide,
      by decide⟩, by decide⟩, by decide +kernel⟩, ⟨rfl, rfl⟩, by decide, by decide, by decide⟩

/-- FillFrame: an element outside the stored one. -/
theorem witness_FillFrame : exec (.fill 1 0 0 [8]) blinker = .next (fillChunk blinker 1 0 8) ∧
    0 ∉ fillElements blinker.cfgreg 1 0 ∧ 1 ∈ fillElements blinker.cfgreg 1 0 := ⟨rfl, by decide, by decide⟩

/-- RdbitRespondsTheCell: the last cell of the grid, by negative coordinates. -/
theorem witness_RdbitResponds : blinker.Ready ∧
    blinker.written blinker.cur (cellAddr blinker.cfgreg (-1#32).toInt (-1#32).toInt).1 = true :=
  ⟨⟨rfl, rfl⟩, by decide⟩

/-- ResponsesAreOneWordPerReadingCommand: a RDBIT, a STAT and a FILL of a fatal engine answer next states. -/
theorem witness_Responses : runCommand 3 0 [] failed = .next (respond errorWord failed) ∧
    runCommand 5 0 [] failed = .next (respond (statusWord failed) failed) ∧ runCommand 2 0 [] failed = .next failed :=
  ⟨rfl, rfl, rfl⟩

/-- ReadingCommandsFrame. -/
theorem witness_ReadingCommands : exec (.rdbit 1 3 0 []) failed = .next (respond errorWord failed) ∧
    exec (.stat 0 0 []) failed = .next (respond (statusWord failed) failed) := ⟨rfl, rfl⟩

/-- UnseededReadsAreRecorded: V-FILL-8, the unwritten row 1. -/
theorem witness_Unseeded : halfSeeded.Ready ∧
    halfSeeded.written halfSeeded.cur (cellAddr halfSeeded.cfgreg (1#32).toInt (0#32).toInt).1 = false ∧
    1 < halfSeeded.cfgreg.elements ∧ halfSeeded.written halfSeeded.cur 1 = false :=
  ⟨⟨rfl, rfl⟩, by decide, by decide, by decide⟩

/-- UninitReadIsNeverCleared: even by a reset. -/
theorem witness_UninitRead : let s : State := { halfSeeded with uninitRead := true, host := [.reset] }
    s.uninitRead = true ∧ step s = .next (resetTransition { s with host := [] }) := ⟨rfl, rfl⟩

/-- NeighborWordsHoldTheNeighborCells: the last slot of the last word, under each strategy, and a slot's bit 3. -/
theorem witness_NeighborWords :
    (blinker.Inv ∧ blinker.cfgd = true ∧ blinker.seeded = true ∧ 4 < blinker.cfgreg.rows ∧ 0 < blinker.cfgreg.wpr ∧
      7 < blinker.cfgreg.m) ∧
    (cornersNib.Inv ∧ cornersNib.cfgd = true ∧ cornersNib.seeded = true ∧ 3 < cornersNib.cfgreg.rows ∧
      3 < cornersNib.cfgreg.wpr ∧ 3 < cornersNib.cfgreg.m ∧ cornersNib.cfgreg.s = 4 ∧ 1 ≤ 3 ∧ 3 < 4) :=
  ⟨⟨witness_inv_blinker, rfl, witness_seeded.1, by decide, by decide, by decide⟩,
   ⟨witness_inv_cornersNib, rfl, witness_seeded.2.1, by decide, by decide, by decide, rfl, by decide, by decide⟩⟩

/-- VectorShiftEqualsScalarShift: 64 lanes of 8 bits, and a legal configuration with two lanes. -/
theorem witness_VectorShift : (8 ∣ 512 ∧ 8 ≤ 8 ∧ ((4 : Nat) = 1 ∨ (4 : Nat) = 4)) ∧ lanes.cfgreg.Legal :=
  ⟨by decide, ⟨by decide, by decide, by decide, by decide, Or.inl rfl, by decide, by decide, by decide, by decide, by decide⟩⟩

/-- OneWordRowsRotate: a slot inside a word, and rows of one word, scalar and by lanes. -/
theorem witness_OneWordRows : 4 < 8 ∧ (blinker.cfgreg.Legal ∧ blinker.cfgreg.wpr = 1) ∧
    lanes.cfgreg.Legal ∧ lanes.cfgreg.wpr = 1 :=
  ⟨by decide, ⟨witness_Legal.1, rfl⟩, witness_VectorShift.2, rfl⟩

/-- CarrySavePlanesCountNeighbors: eight words of all ones (n = 8), at the top bit. -/
theorem witness_CarrySave : (List.replicate 8 (0xFF#8)).length = 8 ∧ 7 < 8 := by decide

/-- CarrySaveOrderDoesNotMatter: two words in both orders, and two lists with equal counts that are no permutation. -/
theorem witness_CarrySaveOrder : List.Perm [0xFF#8, 0xFE] [0xFE#8, 0xFF] ∧
    ∀ j < 8, [0x0F#8, 0xF0].countP (·.getLsbD j) = [0xFF#8, 0x00].countP (·.getLsbD j) :=
  ⟨List.Perm.swap _ _ _, by decide⟩

/-- NibblePlanesCountNeighbors and the nibble clause of RuleEvaluatorIsConwaysRule: V-NIB-1, at a slot's bit 0 and at bit 1. -/
theorem witness_NibblePlanes : (List.replicate 8 (0x1111#16)).length = 8 ∧ 16 % 4 = 0 ∧ 12 < 16 ∧ 13 < 16 ∧ 12 % 4 = 0 ∧
    ∀ v ∈ List.replicate 8 (0x1111#16), ∀ b, v.getLsbD b = true → b % 4 = 0 := by
  refine ⟨rfl, rfl, by decide, by decide, rfl, fun v hv b hb => ?_⟩
  rw [List.eq_of_mem_replicate hv] at hb
  have hlt : b < 16 := Nat.lt_of_not_le fun h => by simp [BitVec.getLsbD_of_ge _ _ h] at hb
  exact (by decide : ∀ b < 16, (0x1111#16).getLsbD b = true → b % 4 = 0) b hlt hb

/-- StepComputesConwaysRule, ConsecutiveStepsIterateConwaysRule, ReadAfterStepSeesTheNewGeneration: under each strategy. -/
theorem witness_StepComputes : (blinker.Inv ∧ blinker.Ready ∧ blinker.seeded = true) ∧
    (cornersNib.Inv ∧ cornersNib.Ready ∧ cornersNib.seeded = true) :=
  ⟨⟨witness_inv_blinker, ⟨rfl, rfl⟩, witness_seeded.1⟩, ⟨witness_inv_cornersNib, ⟨rfl, rfl⟩, witness_seeded.2.1⟩⟩

/-- StepFillsNextAndSwaps: the last word of the grid, and an element beyond it. -/
theorem witness_StepFills : blinker.Ready ∧ 1 ≤ blinker.cfgreg.workers ∧ 4 < blinker.cfgreg.rows ∧
    0 < blinker.cfgreg.wpr ∧ blinker.cfgreg.elements ≤ 5 := ⟨⟨rfl, rfl⟩, by decide, by decide, by decide, by decide⟩

/-- NextBufferIsNotObservable: another word in the next buffer, and a STEP. -/
theorem witness_NextBuffer : blinker.Inv ∧ exec (.step 0 0 []) blinker = .next (advance blinker) ∧
    exec (.step 0 0 []) (blinker.setBuf (!blinker.cur) [(0, 0xFF)]) =
      .next (advance (blinker.setBuf (!blinker.cur) [(0, 0xFF)])) := ⟨witness_inv_blinker, rfl, rfl⟩

/-- FailingStepFrame: a STEP with H1 = 1 (V-CMD-12), and one that meets the gate. -/
theorem witness_FailingStep : exec (.step 0 1 []) blinker = .next (raiseFatal .reservedField blinker) ∧
    (raiseFatal .reservedField blinker).fatal = true ∧ exec (.step 0 0 []) failed = .next failed := ⟨rfl, rfl, rfl⟩

/-- WorkerRangesPartitionTheRows: more workers than rows. -/
theorem witness_WorkerRanges : 1 ≤ 7 ∧ (List.range 7).flatMap (workerRows 3 7) = [0, 1, 2] := by decide

/-- WorkersAndOrderDoNotMatter: 65536 workers; and the words of the grid backwards. -/
theorem witness_Workers : blinker.Ready ∧ 1 ≤ blinker.cfgreg.workers ∧ 1 ≤ (65536#17).toNat ∧
    ∀ r k, (r, k) ∈ [(4, 0), (3, 0), (2, 0), (1, 0), (0, 0)] ↔ r < blinker.cfgreg.rows ∧ k < blinker.cfgreg.wpr := by
  refine ⟨⟨rfl, rfl⟩, by decide, by decide, fun r k => ?_⟩
  have h1 : blinker.cfgreg.rows = 5 := rfl
  have h2 : blinker.cfgreg.wpr = 1 := rfl
  simp only [h1, h2, List.mem_cons, Prod.mk.injEq, List.not_mem_nil, or_false]
  omega

/-- The cells of the two states with the block over the four corners agree on the grid. -/
theorem test_corners_agree : ∀ r < 4, ∀ c < 16, grid cornersCsc (r : Nat) (c : Nat) = grid cornersNib (r : Nat) (c : Nat) := by
  decide +kernel

/-- StrategiesAgreeAfterAnyGenerations: the block over the four corners, cell for cell the same under both strategies. -/
theorem witness_Strategies : cornersCsc.Inv ∧ cornersNib.Inv ∧ cornersCsc.Ready ∧ cornersNib.Ready ∧
    cornersCsc.seeded = true ∧ cornersNib.seeded = true ∧ cornersCsc.cfgreg.STRAT = 0 ∧ cornersNib.cfgreg.STRAT = 1 ∧
    cornersCsc.cfgreg.R = cornersNib.cfgreg.R ∧ cornersCsc.cfgreg.C = cornersNib.cfgreg.C ∧
    grid cornersCsc = grid cornersNib := by
  refine ⟨witness_inv_cornersCsc, witness_inv_cornersNib, ⟨rfl, rfl⟩, ⟨rfl, rfl⟩, witness_seeded.2.2.1, witness_seeded.2.1,
    rfl, rfl, rfl, rfl, ?_⟩
  funext row col
  have h1 := cell_wrap cornersCsc cornersCsc.cur row col (by decide) (by decide)
  have h2 := cell_wrap cornersNib cornersNib.cur row col (by decide) (by decide)
  exact h1.trans ((test_corners_agree _ (wrap_lt row (by decide)) _ (wrap_lt col (by decide))).trans h2.symm)

/-- StrategiesAgreeAfterAnyGenerations, its FILL clause: the same FILL on both engines. -/
theorem witness_StrategiesFill : cornersCsc.cfgreg.LOG2W = cornersNib.cfgreg.LOG2W ∧
    [0xFFFF#64].length = max 1 (cornersCsc.cfgreg.W / 64) ∧
    (cornersCsc.cfgreg.W < 64 → ([0xFFFF#64].headD 0).toNat < 2 ^ cornersCsc.cfgreg.W) ∧
    exec (.fill 1 0 0 [0xFFFF]) cornersCsc = .next (fillChunk cornersCsc 1 0 (assemblePayload 16 [0xFFFF])) ∧
    exec (.fill 1 0 0 [0xFFFF]) cornersNib = .next (fillChunk cornersNib 1 0 (assemblePayload 16 [0xFFFF])) :=
  ⟨rfl, by decide, by decide, rfl, rfl⟩

/-- EveryStepKeepsTheInvariant, FiniteStreamsEnd: a legal state with a STEP on the channel. -/
theorem witness_Invariant : (placeCommand [4, 0] blinker).Inv ∧ ∃ t, step (placeCommand [4, 0] blinker) = .next t :=
  ⟨⟨witness_inv_blinker.sorted, witness_inv_blinker.causeKnown, witness_inv_blinker.causeNone,
    witness_inv_blinker.decPartial, witness_inv_blinker.unconfigured, witness_inv_blinker.configured,
    witness_inv_blinker.stored⟩, _, rfl⟩

end Sys2Proof.Tests
end

section
/-! PROOFS. The scope of the engine: a step executes the decoded command (rule R1), a legal CFG constructs the engine
(rule R120), and a finite stream of host moves ends (rules R392, R393). -/

namespace Sys2Proof.Machine

/-! ### The decoder and the step -/

/-- What the decoder accepts: a whole command is there, and its fields decode (rules R85, R86). -/
theorem decode_eq_ok {ws : List Word} {i : Instr} {rest : List Word} :
    decode ws = .ok (i, rest) ↔
      ∃ h0 h1 payload, splitCommand ws = some (h0, h1, payload, rest) ∧ decodeFields h0 h1 payload = .ok i := by
  unfold decode
  constructor
  · intro h
    split at h
    · cases h
    · rename_i h0 h1 payload rest' hsplit
      split at h
      · rename_i j hfields
        cases h
        exact ⟨h0, h1, payload, hsplit, hfields⟩
      · cases h
  · rintro ⟨h0, h1, payload, hsplit, hfields⟩
    simp only [hsplit, hfields]

/-- The framing of a command does not depend on the words after it (rule R85). -/
theorem splitCommand_append_right {ws : List Word} {h0 h1 : Word} {payload rest : List Word} (more : List Word)
    (h : splitCommand ws = some (h0, h1, payload, rest)) :
    splitCommand (ws ++ more) = some (h0, h1, payload, rest ++ more) := by
  obtain ⟨rfl, hlen⟩ := splitCommand_eq_some h
  rw [List.append_assoc]
  exact splitCommand_append (rest ++ more) hlen

/-- A command of legal opcode runs by its meaning (rule R344). -/
theorem runCommand_of_decodeFields {h0 h1 : Word} {payload : List Word} {i : Instr} (s : State)
    (h : decodeFields h0 h1 payload = .ok i) : runCommand h0 h1 payload s = exec i s := by
  simp only [runCommand, h]

/-- Settles O5: the framing ends with the command, so what follows it goes back on the channel as it was. -/
theorem stepExecutesTheDecodedCommand : Obligations.StepExecutesTheDecodedCommand := by
  intro s w ws ms i hhost hdecode
  obtain ⟨h0, h1, payload, hsplit, hfields⟩ := decode_eq_ok.1 hdecode
  rw [step_of_split hhost (splitCommand_append_right _ hsplit), runCommand_of_decodeFields _ hfields, List.nil_append,
    sendWords_leadingWords]

/-! ### Construction -/

/-- The legal field values of CFG, as bounds (rules R3, R4, R6, R7). -/
theorem paramsLegal_iff {strat : BitVec 2} {log2w log2l : BitVec 4} {rows cols : BitVec 32} :
    paramsLegal strat log2w log2l rows cols = true ↔
      strat.toNat ≤ 1 ∧ 3 ≤ log2w.toNat ∧ log2w.toNat ≤ 9 ∧ 3 ≤ log2l.toNat ∧ log2l.toNat ≤ log2w.toNat ∧
        1 ≤ rows.toNat ∧ 1 ≤ cols.toNat := by
  have one_le_iff (v : BitVec 32) : 1 ≤ v.toNat ↔ v ≠ 0 := by bv_omega
  simp [paramsLegal, one_le_iff, and_assoc]

/-- A CFG that passes every check of rule R120 constructs the engine. -/
theorem execCfg_of_legal {strat : BitVec 2} {log2w log2l : BitVec 4} {rows cols : BitVec 32} {s : State}
    (pm1 : BitVec 16) (hfatal : s.fatal = false) (hcfgd : s.cfgd = false)
    (hparams : paramsLegal strat log2w log2l rows cols = true) (hmultiple : cols.toNat % 2 ^ log2w.toNat = 0)
    (hstorage : storageBits strat rows cols ≤ s.capacity) :
    execCfg strat log2w log2l pm1 rows cols ⟨0, 0, 0⟩ [] s =
      .next (construct ⟨rows, cols, log2w, strat, log2l, pm1.setWidth 17 + 1⟩ s) := by
  simp [execCfg, hfatal, hcfgd, hparams, hmultiple, hstorage]

/-- P = PM1 + 1 does not wrap in its 17 bits (rules R8, R23). -/
theorem toNat_setWidth_add_one (pm1 : BitVec 16) : (pm1.setWidth 17 + 1).toNat = pm1.toNat + 1 := by
  bv_omega

/-- A new construction has nothing WRITTEN (rule R32). -/
@[simp] theorem written_construct (g : CfgReg) (s : State) (b : Bool) (i : Nat) :
    (construct g s).written b i = false := by
  simp [State.written, Memory.read]

/-- Settles O20: the legal CFG is the construction, whose fields are read off. -/
theorem cfgConstructsTheEngine : Obligations.CfgConstructsTheEngine := by
  intro s strat log2w log2l pm1 rows cols hfatal hcfgd hstrat hw3 hw9 hl3 hlw hrows hcols hmultiple hstorage
  have hparams := paramsLegal_iff.2 ⟨hstrat, hw3, hw9, hl3, hlw, hrows, hcols⟩
  exact ⟨_, execCfg_of_legal pm1 hfatal hcfgd hparams hmultiple hstorage, rfl, rfl, rfl, rfl, rfl,
    toNat_setWidth_add_one pm1, rfl, rfl, written_construct _ s, hfatal, rfl, rfl, rfl, rfl⟩

/-! ### Every command completes -/

/-- Every command answers a next state (rule R392). -/
theorem exec_total (i : Instr) (s : State) : ∃ t, exec i s = .next t := by
  cases i with
  | cfg => simp only [exec, execCfg, failCommand]; split_ifs <;> exact ⟨_, rfl⟩
  | fill => simp only [exec, execFill, failCommand]; split_ifs <;> exact ⟨_, rfl⟩
  | rdbit => simp only [exec, execRdbit, failRead]; split_ifs <;> exact ⟨_, rfl⟩
  | step => simp only [exec, execStep, failCommand]; split_ifs <;> exact ⟨_, rfl⟩
  | stat => exact ⟨_, rfl⟩

/-- No command touches the host's further moves, DEC, the responses taken or the capacity (rules R20, R60). -/
theorem exec_frame {i : Instr} {s t : State} (h : exec i s = .next t) :
    t.host = s.host ∧ t.dec = s.dec ∧ t.taken = s.taken ∧ t.capacity = s.capacity := by
  cases i with
  | cfg => rcases execCfg_cases h with ⟨-, rfl⟩ | ⟨-, c, rfl⟩ | ⟨-, -, -, -, -, rfl⟩ <;> simp
  | fill => rcases execFill_cases h with ⟨-, rfl⟩ | ⟨-, c, rfl⟩ | ⟨-, -, -, rfl⟩ <;> simp
  | rdbit => rcases execRdbit_cases h with ⟨-, rfl⟩ | ⟨-, c, rfl⟩ | ⟨-, -, rfl⟩ <;> simp
  | step => rcases execStep_cases h with ⟨-, rfl⟩ | ⟨-, c, rfl⟩ | ⟨-, -, rfl⟩ <;> simp
  | stat => rcases execStat_cases h with rfl | ⟨-, c, rfl⟩ <;> simp

/-- A command taken off the channel, an illegal one too, completes and leaves the rest of the channel and DEC alone
(rules R60, R88, R392). -/
theorem runCommand_answers (h0 h1 : Word) (payload : List Word) (s : State) :
    ∃ t, runCommand h0 h1 payload s = .next t ∧ t.host = s.host ∧ t.dec = s.dec := by
  cases hfields : decodeFields h0 h1 payload with
  | ok i =>
    obtain ⟨t, ht⟩ := exec_total i s
    obtain ⟨hhost, hdec, -, -⟩ := exec_frame ht
    exact ⟨t, (runCommand_of_decodeFields s hfields).trans ht, hhost, hdec⟩
  | error e =>
    exact ⟨raiseFatal .illegalOpcode s, by simp only [runCommand, hfields, failCommand], by simp, by simp⟩

/-! ### The channel runs dry -/

/-- The leading words and the later moves count all the moves. -/
theorem length_leadingWords (ms : List HostMove) :
    (leadingWords ms).1.length + (leadingWords ms).2.length = ms.length := by
  conv_rhs => rw [← sendWords_leadingWords ms]
  simp [sendWords]

/-- While no whole command is there, the words that stand next wait in DEC (rule R85). -/
theorem receive_of_partial {s : State} {ws : List Word} {ms : List HostMove} (hlead : leadingWords s.host = (ws, ms))
    (h : splitCommand (s.dec ++ ws) = none) : receive s = .next { s with dec := s.dec ++ ws, host := ms } := by
  simp only [receive, hlead, h]

/-- A step on a channel whose next moves are words of no whole command moves the words into DEC (rule R85). -/
theorem step_of_partial {s : State} {w : Word} {ws : List Word} {ms : List HostMove}
    (hhost : s.host = sendWords (w :: ws) ++ ms)
    (h : splitCommand (s.dec ++ (w :: ws) ++ (leadingWords ms).1) = none) :
    step s = .next { s with dec := s.dec ++ (w :: ws) ++ (leadingWords ms).1, host := (leadingWords ms).2 } := by
  have hreceive : step s = receive s := by rw [step, nextTransition, hhost]; rfl
  have hlead := hhost ▸ leadingWords_sendWords (w :: ws) ms
  rw [List.append_assoc] at h ⊢
  rw [hreceive, receive_of_partial hlead h]

/-- With nothing on the channel and DEC not a whole command, the engine holds its state (rule R356, 93 H2). -/
theorem step_of_host_nil {s : State} (hhost : s.host = []) (hdec : splitCommand s.dec = none) : step s = .next s := by
  have hreceive : step s = receive s := by rw [step, nextTransition, hhost]
  have hlead : leadingWords s.host = ([], []) := by rw [hhost]; rfl
  rw [hreceive, receive_of_partial hlead (by rwa [List.append_nil]), List.append_nil, ← hhost]

/-- A command that DEC does not hold whole takes at least one of the words that follow DEC. -/
theorem length_lt_of_splitCommand_append {d ws : List Word} {h0 h1 : Word} {payload rest : List Word}
    (hpartial : splitCommand d = none) (h : splitCommand (d ++ ws) = some (h0, h1, payload, rest)) :
    rest.length < ws.length := by
  obtain ⟨heq, hlen⟩ := splitCommand_eq_some h
  have hne : ∀ more, d ≠ h0 :: h1 :: payload ++ more := by
    rintro more rfl
    exact absurd ((splitCommand_append more hlen).symm.trans hpartial) (by simp)
  obtain ⟨more, hcommand, rfl⟩ | ⟨more, hd, -⟩ := List.append_eq_append_iff.1 heq
  · have hmore : more ≠ [] := by
      rintro rfl
      exact hne [] (by simp [hcommand])
    simpa using List.length_pos_iff.2 hmore
  · exact absurd hd (hne more)

/-- A step with a host move left sees at least one of them, and leaves less than a whole command in DEC. -/
theorem step_consumes {s : State} (hhost : s.host ≠ []) (hdec : splitCommand s.dec = none) :
    ∃ t, step s = .next t ∧ t.host.length < s.host.length ∧ splitCommand t.dec = none := by
  cases hms : s.host with
  | nil => exact absurd hms hhost
  | cons m ms =>
    cases m with
    | reset => exact ⟨resetTransition { s with host := ms }, by simp only [step, nextTransition, hms], by simp, rfl⟩
    | take => exact ⟨takeResponse { s with host := ms }, by simp only [step, nextTransition, hms], by simp, hdec⟩
    | word w =>
      have hcount := length_leadingWords ms
      cases hsplit : splitCommand (s.dec ++ [w] ++ (leadingWords ms).1) with
      | none =>
        refine ⟨_, step_of_partial hms hsplit, ?_, hsplit⟩
        simp only [List.length_cons]
        omega
      | some c =>
        obtain ⟨h0, h1, payload, rest⟩ := c
        obtain ⟨t, ht, hthost, htdec⟩ := runCommand_answers h0 h1 payload
          { s with dec := [], host := sendWords rest ++ (leadingWords ms).2 }
        have hrest := length_lt_of_splitCommand_append hdec (List.append_assoc .. ▸ hsplit)
        refine ⟨t, (step_of_split hms hsplit).trans ht, ?_, by rw [htdec]; rfl⟩
        simp only [hthost, sendWords, List.length_append, List.length_map, List.length_cons, List.length_nil] at hrest ⊢
        omega

/-- A run of one step more begins with the step. -/
theorem core_run_succ {s u : State} (k : Nat) (h : step s = .next u) : core.run (k + 1) s = core.run k u := by
  have hstep : core.step s = .next u := h
  simp only [Host.Core.run, hstep]

/-- From a state whose DEC holds less than a command, all moves of the host are seen within as many steps as there are
moves, and DEC holds less than a command then. -/
theorem run_consumes_host (s : State) (hdec : splitCommand s.dec = none) :
    ∃ k t, k ≤ s.host.length ∧ core.run k s = .next t ∧ t.host = [] ∧ splitCommand t.dec = none := by
  induction hn : s.host.length using Nat.strong_induction_on generalizing s with
  | _ n ih =>
    by_cases hhost : s.host = []
    · exact ⟨0, s, Nat.zero_le n, rfl, hhost, hdec⟩
    · obtain ⟨u, hu, hlt, hudec⟩ := step_consumes hhost hdec
      obtain ⟨k, t, hk, hrun, hthost, htdec⟩ := ih u.host.length (hn ▸ hlt) u hudec rfl
      exact ⟨k + 1, t, by omega, (core_run_succ k hu).trans hrun, hthost, htdec⟩

/-- Settles O11: each step sees a move while one is left, and then the engine waits. -/
theorem finiteStreamsEnd : Obligations.FiniteStreamsEnd := by
  intro s hinv
  obtain ⟨k, t, hk, hrun, hhost, hdec⟩ := run_consumes_host s hinv.decPartial
  exact ⟨k, t, hk, hrun, hhost, step_of_host_nil hhost hdec, fun hidle hnoUninit => ⟨hhost, hidle, hnoUninit⟩⟩

end Sys2Proof.Machine
end

section
/-! PROOFS. The engine's state: the legal states and what keeps them (rules R23, R28, R30, R31, R85, R341), what FILL and
STEP do to the two buffers (rules R130, R131, R281 to R283), that the next buffer is not observable (rule R29), reset
(rule R32) and the status word (rule R24). -/

namespace Sys2Proof.Machine

/-! ### The geometry of a legal configuration -/

/-- A cell slot has one bit under STRAT 0 and four under every other value (rule R6). -/
theorem CfgReg.s_cases (g : CfgReg) : g.STRAT = 0#2 ∧ g.s = 1 ∨ g.STRAT ≠ 0#2 ∧ g.s = 4 := by
  by_cases h : g.STRAT = 0#2
  · exact .inl ⟨h, if_pos h⟩
  · exact .inr ⟨h, if_neg h⟩

theorem CfgReg.s_pos (g : CfgReg) : 0 < g.s := by
  rcases g.s_cases with ⟨-, h⟩ | ⟨-, h⟩ <;> omega

theorem CfgReg.W_pos (g : CfgReg) : 0 < g.W := Nat.two_pow_pos _

namespace CfgReg.Legal

variable {g : CfgReg}

/-- A word is at most as wide as a stored grid word (rule R3). -/
theorem W_le (h : g.Legal) : g.W ≤ 512 := Nat.pow_le_pow_right (by omega) h.log2wHigh

/-- A word is a whole number of slots (rule R6). -/
theorem s_dvd_W (h : g.Legal) : g.s ∣ g.W := by
  have h8 : 8 ∣ g.W := Nat.pow_dvd_pow 2 h.log2wLow
  rcases g.s_cases with ⟨-, hs⟩ | ⟨-, hs⟩ <;> rw [hs] <;> omega

theorem m_mul_s (h : g.Legal) : g.m * g.s = g.W := Nat.div_mul_cancel h.s_dvd_W

theorem m_pos (h : g.Legal) : 0 < g.m := Nat.pos_of_mul_pos_right (h.m_mul_s ▸ g.W_pos)

theorem chunks_mul_W (h : g.Legal) : g.chunks * g.W = g.cols := Nat.div_mul_cancel (Nat.dvd_of_mod_eq_zero h.multiple)

theorem chunks_pos (h : g.Legal) : 0 < g.chunks := Nat.pos_of_mul_pos_right (h.chunks_mul_W ▸ h.colsPos)

/-- A chunk stands in as many words as a slot has bits (rules R130, R131). -/
theorem wpr_eq (h : g.Legal) : g.wpr = g.chunks * g.s := by
  have hcols : g.cols = g.chunks * g.s * g.m := by
    rw [← h.chunks_mul_W, ← h.m_mul_s, Nat.mul_assoc, Nat.mul_comm g.m]
  rw [wpr, hcols, Nat.mul_div_cancel _ h.m_pos]

end CfgReg.Legal

/-- An index in row-major order names one row and one column. -/
theorem rowMajor_inj {n r r' k k' : Nat} (hk : k < n) (hk' : k' < n) (h : r * n + k = r' * n + k') : r = r' ∧ k = k' := by
  have div_eq (q : Nat) {j : Nat} (hj : j < n) : (q * n + j) / n = q := by
    rw [Nat.mul_comm, Nat.mul_add_div (by omega), Nat.div_eq_of_lt hj, Nat.add_zero]
  have hr : r = r' := by rw [← div_eq r hk, h, div_eq r' hk']
  subst hr
  exact ⟨rfl, Nat.add_left_cancel h⟩

/-- An index in row-major order is an index of the whole. -/
theorem rowMajor_lt {n rows r k : Nat} (hr : r < rows) (hk : k < n) : r * n + k < rows * n :=
  calc r * n + k < (r + 1) * n := by rw [Nat.succ_mul]; omega
    _ ≤ rows * n := Nat.mul_le_mul_right n hr

/-- The word column of a cell is a word of its row (rules R6, R52). -/
theorem CfgReg.Legal.wrap_div_m_lt {g : CfgReg} (h : g.Legal) (col : Int) : wrap col g.cols / g.m < g.wpr := by
  have hcols : g.cols = g.m * g.wpr := by
    rw [h.wpr_eq, ← h.chunks_mul_W, ← h.m_mul_s]; ring
  exact Nat.div_lt_of_lt_mul (hcols ▸ wrap_lt col h.colsPos)

/-- Two coordinates reduce alike exactly when they are congruent (rules R11, R54). -/
theorem wrap_eq_wrap_iff {x y : Int} {n : Nat} (h : 0 < n) : wrap x n = wrap y n ↔ x % n = y % n := by
  rw [← wrap_cast x h, ← wrap_cast y h, Int.ofNat_inj]

/-! ### The words of a STEP -/

/-- The rows of the first workers, joined in worker order, are the first rows (rule R291). -/
theorem flatMap_workerRows_of_le {rows p n : Nat} (hn : n ≤ p) :
    (List.range n).flatMap (workerRows rows p) = List.range (n * rows / p) := by
  induction n with
  | zero => simp
  | succ n ih =>
    have hle : n * rows / p ≤ (n + 1) * rows / p := Nat.div_le_div_right (Nat.mul_le_mul_right rows (Nat.le_succ n))
    have hjoin := List.range'_append_1 (s := 0) (m := n * rows / p) (n := (n + 1) * rows / p - n * rows / p)
    rw [Nat.zero_add, Nat.add_sub_cancel' hle] at hjoin
    rw [List.range_succ, List.flatMap_append, List.flatMap_singleton, ih (by omega), workerRows, List.range_eq_range',
      List.range_eq_range', hjoin]

/-- The rows of all workers are all rows, in order (rules R290, R291). -/
theorem flatMap_workerRows {rows p : Nat} (hp : 1 ≤ p) :
    (List.range p).flatMap (workerRows rows p) = List.range rows := by
  rw [flatMap_workerRows_of_le (Nat.le_refl p), Nat.mul_div_cancel_left rows hp]

/-- The workers compute exactly the words of the grid (rule R290). -/
theorem mem_stepWords {g : CfgReg} (hp : 1 ≤ g.workers) {rk : Nat × Nat} :
    rk ∈ stepWords g ↔ rk.1 < g.rows ∧ rk.2 < g.wpr := by
  obtain ⟨r, k⟩ := rk
  simp [stepWords, flatMap_workerRows hp]

/-- After a STEP every word of the grid in the next buffer is NextWord (rules R281, R282). -/
theorem read_nextBuffer {s : State} (hp : 1 ≤ s.cfgreg.workers) {r k : Nat} (hr : r < s.cfgreg.rows)
    (hk : k < s.cfgreg.wpr) :
    (nextBuffer s).read (r * s.cfgreg.wpr + k) = some ((nextWord s r k).setWidth 512) := by
  refine Memory.read_foldl_write_same _ ⟨(r, k), (mem_stepWords hp).2 ⟨hr, hk⟩, rfl⟩ ?_
  rintro ⟨r', k'⟩ hmem hkey
  obtain ⟨-, hk'⟩ := (mem_stepWords hp).1 hmem
  obtain ⟨rfl, rfl⟩ := rowMajor_inj hk' hk hkey
  rfl

/-- Outside the grid a STEP leaves the next buffer alone (rule R283). -/
theorem read_nextBuffer_of_elements_le {s : State} (hp : 1 ≤ s.cfgreg.workers) {i : Nat} (hi : s.cfgreg.elements ≤ i) :
    (nextBuffer s).read i = (s.buf (!s.cur)).read i := by
  refine Memory.read_foldl_write_other _ ?_
  rintro ⟨r, k⟩ hmem
  obtain ⟨hr, hk⟩ := (mem_stepWords hp).1 hmem
  exact (lt_of_lt_of_le (rowMajor_lt hr hk) hi).ne

/-- An engine is not seeded exactly when an element of its current buffer is unwritten (rules R30, R350). -/
theorem seeded_eq_false_iff {s : State} : s.seeded = false ↔ ∃ i, i < s.cfgreg.elements ∧ s.written s.cur i = false := by
  simp [State.seeded]

/-- A STEP with no reserved bit and no payload of a ready engine is one generation (rule R280). -/
theorem execStep_of_ready {s : State} (h : s.Ready) : execStep 0 0 [] s = .next (advance s) := by
  simp [execStep, h.configured, h.notFatal]

/-- Settles O42: the writes of a STEP name each word of the grid and no other element. -/
theorem stepFillsNextAndSwaps : Obligations.StepFillsNextAndSwaps := by
  intro s hready hp
  have hcur : (advance s).buf (advance s).cur = nextBuffer s := by simp [buf_advance]
  refine ⟨advance s, execStep_of_ready hready, advance_cur s, by simp [buf_advance], ?_, ?_, ?_⟩
  · intro r k hr hk
    rw [hcur, read_nextBuffer hp hr hk]
  · intro i hi
    rw [hcur, read_nextBuffer_of_elements_le hp hi, advance_cur]
  · simp [hready.configured, hready.notFatal, ← seeded_eq_false_iff]

/-! ### The words of a FILL -/

/-- The q-th element a FILL stores to (rules R130, R131). -/
def fillElement (g : CfgReg) (row chunk : Int) (q : Nat) : Nat :=
  wrap row g.rows * g.wpr + (g.s * wrap chunk g.chunks + q)

/-- The word a FILL stores to the q-th of its elements (rules R130, R131). -/
def fillWord (g : CfgReg) (v : BitVec g.W) (q : Nat) : GridWord :=
  if g.STRAT = 0 then v.setWidth 512 else (nibbleWord v q).setWidth 512

/-- A FILL stores to as many elements as a slot has bits. -/
theorem mem_fillElements {g : CfgReg} {row chunk : Int} {i : Nat} :
    i ∈ fillElements g row chunk ↔ ∃ q < g.s, fillElement g row chunk q = i := by
  rcases g.s_cases with ⟨hstrat, hs⟩ | ⟨hstrat, hs⟩
  · simp [fillElements, fillElement, hstrat, hs, eq_comm]
  · simp [fillElements, fillElement, hstrat, hs, Nat.add_assoc]

/-- What a FILL does to the current buffer, under either strategy: one write for each bit of a slot. -/
theorem buf_fillChunk_cur (s : State) (row chunk : Int) (v : BitVec s.cfgreg.W) :
    (fillChunk s row chunk v).buf s.cur = (List.range s.cfgreg.s).foldl
      (fun m q => m.write (fillElement s.cfgreg row chunk q) (fillWord s.cfgreg v q)) (s.buf s.cur) := by
  rcases s.cfgreg.s_cases with ⟨hstrat, hs⟩ | ⟨hstrat, hs⟩
  · simp [fillChunk, fillElement, fillWord, State.gwrite, hstrat, hs]
  · simp [fillChunk, fillElement, fillWord, writeNibbleChunk, hstrat, hs, Nat.add_assoc]

/-- A FILL leaves the next buffer alone (rule R130). -/
theorem buf_fillChunk_next (s : State) (row chunk : Int) (v : BitVec s.cfgreg.W) :
    (fillChunk s row chunk v).buf (!s.cur) = s.buf (!s.cur) := by
  obtain ⟨m, hm⟩ := fillChunk_eq s row chunk v
  simp [hm]

/-- Each element a FILL stores to holds its word. -/
theorem read_fillChunk (s : State) (row chunk : Int) (v : BitVec s.cfgreg.W) {q : Nat} (hq : q < s.cfgreg.s) :
    ((fillChunk s row chunk v).buf s.cur).read (fillElement s.cfgreg row chunk q) = some (fillWord s.cfgreg v q) := by
  rw [buf_fillChunk_cur]
  refine Memory.read_foldl_write_same _ ⟨q, List.mem_range.2 hq, rfl⟩ fun q' _ hkey => ?_
  obtain rfl : q' = q := by unfold fillElement at hkey; omega
  rfl

/-- Every other element reads as before. -/
theorem read_fillChunk_of_notMem (s : State) {row chunk : Int} (v : BitVec s.cfgreg.W) {i : Nat}
    (hi : i ∉ fillElements s.cfgreg row chunk) :
    ((fillChunk s row chunk v).buf s.cur).read i = (s.buf s.cur).read i := by
  rw [buf_fillChunk_cur]
  exact Memory.read_foldl_write_other _ fun q hq hkey => hi (mem_fillElements.2 ⟨q, List.mem_range.1 hq, hkey⟩)

/-- The elements WRITTEN after a FILL: those it stores to, and those that were (rule R30). -/
theorem written_fillChunk (s : State) (row chunk : Int) (v : BitVec s.cfgreg.W) (i : Nat) :
    (fillChunk s row chunk v).written s.cur i = true ↔
      i ∈ fillElements s.cfgreg row chunk ∨ s.written s.cur i = true := by
  by_cases hi : i ∈ fillElements s.cfgreg row chunk
  · obtain ⟨q, hq, rfl⟩ := mem_fillElements.1 hi
    simp [State.written, read_fillChunk s row chunk v hq, hi]
  · simp [State.written, read_fillChunk_of_notMem s v hi, hi]

/-- The words of a chunk are words of its row. -/
theorem CfgReg.Legal.chunk_word_lt {g : CfgReg} (h : g.Legal) (chunk : Int) {q : Nat} (hq : q < g.s) :
    g.s * wrap chunk g.chunks + q < g.wpr := by
  have := rowMajor_lt (wrap_lt chunk h.chunks_pos) hq
  rwa [h.wpr_eq, Nat.mul_comm]

/-- Slot t of word q of a chunk holds cell q * m + t of the chunk (rules R130, R131). -/
theorem getLsbD_fillWord {g : CfgReg} (h : g.Legal) (v : BitVec g.W) {q t : Nat} (hq : q < g.s) (ht : t < g.m) :
    (fillWord g v q).getLsbD (g.s * t) = v.getLsbD (q * g.m + t) := by
  have hW := h.W_le
  have hm := h.m_mul_s
  rcases g.s_cases with ⟨hstrat, hs⟩ | ⟨hstrat, hs⟩
  · rw [hs] at hq hm ⊢
    obtain rfl : q = 0 := by omega
    simp [fillWord, hstrat, show t < 512 by omega]
  · rw [hs] at hm ⊢
    have hword : fillWord g v q = (nibbleWord v q).setWidth 512 := if_neg hstrat
    rw [hword, BitVec.getLsbD_setWidth, getLsbD_nibbleWord]
    simp [show 4 * t < 512 by omega, show 4 * t < g.W by omega, show g.W / 4 = g.m by omega]

/-- The element of a cell is one a FILL stores to exactly when the cell lies in its chunk. -/
theorem cellAddr_eq_fillElement_iff {g : CfgReg} (h : g.Legal) {row chunk r c : Int} {q : Nat} (hq : q < g.s) :
    fillElement g row chunk q = (cellAddr g r c).1 ↔
      wrap r g.rows = wrap row g.rows ∧ wrap c g.cols / g.W = wrap chunk g.chunks ∧
        wrap c g.cols % g.W / g.m = q := by
  have hdiv : wrap c g.cols / g.m / g.s = wrap c g.cols / g.W := by rw [Nat.div_div_eq_div_mul, h.m_mul_s]
  have hmod : wrap c g.cols / g.m % g.s = wrap c g.cols % g.W / g.m := by
    rw [← h.m_mul_s, Nat.mod_mul_right_div_self]
  have hsplit := Nat.div_mod_unique g.s_pos (a := wrap c g.cols / g.m) (c := q) (d := wrap chunk g.chunks)
  rw [hdiv, hmod] at hsplit
  constructor
  · intro heq
    obtain ⟨hrow, hcol⟩ := rowMajor_inj (h.chunk_word_lt chunk hq) (h.wrap_div_m_lt c) heq
    exact ⟨hrow.symm, hsplit.2 ⟨by omega, hq⟩⟩
  · rintro ⟨hrow, hcol⟩
    obtain ⟨hword, -⟩ := hsplit.1 hcol
    simp only [fillElement, cellAddr, hrow]
    omega

/-- The cells after a FILL: those of its chunk take the bits of the fill value, every other keeps its value
(rules R53, R130, R131). -/
theorem cell_fillChunk {s : State} (h : s.cfgreg.Legal) (row chunk : Int) (v : BitVec s.cfgreg.W) (r c : Int) :
    cell (fillChunk s row chunk v) s.cur r c =
      if wrap r s.cfgreg.rows = wrap row s.cfgreg.rows ∧
          wrap c s.cfgreg.cols / s.cfgreg.W = wrap chunk s.cfgreg.chunks then
        v.getLsbD (wrap c s.cfgreg.cols % s.cfgreg.W)
      else cell s s.cur r c := by
  split
  next hin =>
    have hcell : wrap c s.cfgreg.cols % s.cfgreg.W < s.cfgreg.s * s.cfgreg.m := by
      rw [Nat.mul_comm, h.m_mul_s]; exact Nat.mod_lt _ (CfgReg.W_pos _)
    have hq : wrap c s.cfgreg.cols % s.cfgreg.W / s.cfgreg.m < s.cfgreg.s :=
      Nat.div_lt_of_lt_mul (by rwa [Nat.mul_comm])
    have helem := (cellAddr_eq_fillElement_iff h hq).2 ⟨hin.1, hin.2, rfl⟩
    have hslot : wrap c s.cfgreg.cols % s.cfgreg.m = wrap c s.cfgreg.cols % s.cfgreg.W % s.cfgreg.m :=
      (Nat.mod_mod_of_dvd _ ⟨_, h.m_mul_s.symm⟩).symm
    simp only [cell, State.gread, fillChunk_cfgreg]
    rw [← helem, read_fillChunk s row chunk v hq, Option.getD_some]
    show (fillWord _ v _).getLsbD (s.cfgreg.s * (wrap c s.cfgreg.cols % s.cfgreg.m)) = _
    rw [hslot, getLsbD_fillWord h v hq (Nat.mod_lt _ h.m_pos), Nat.div_add_mod']
  next hout =>
    have hnot : (cellAddr s.cfgreg r c).1 ∉ fillElements s.cfgreg row chunk := by
      intro hmem
      obtain ⟨q, hq, heq⟩ := mem_fillElements.1 hmem
      obtain ⟨hrow, hchunk, -⟩ := (cellAddr_eq_fillElement_iff h hq).1 heq
      exact hout ⟨hrow, hchunk⟩
    simp only [cell, State.gread, fillChunk_cfgreg, fillChunk_epoch, read_fillChunk_of_notMem s v hnot]

/-- No reserved payload bit is set when P_0 fits W bits (rules R84, R89). -/
theorem payloadOverflows_eq_false {w : Nat} {p : List Word} (h : (p.headD 0).toNat < 2 ^ w) :
    payloadOverflows w p = false := by
  have hzero : p.headD 0 >>> w = 0 := by
    apply BitVec.eq_of_toNat_eq
    rw [BitVec.toNat_ushiftRight, Nat.shiftRight_eq_div_pow, Nat.div_eq_of_lt h]
    rfl
  rw [payloadOverflows, hzero, bne_self_eq_false]

/-- A FILL of a ready engine with the right LEN and no reserved bit stores its chunk (rule R130). -/
theorem execFill_of_ready {s : State} (row chunk : BitVec 32) {p : List Word} (hready : s.Ready)
    (hlen : p.length = max 1 (s.cfgreg.W / 64)) (hp : s.cfgreg.W < 64 → (p.headD 0).toNat < 2 ^ s.cfgreg.W) :
    execFill row chunk 0 p s = .next (fillChunk s row.toInt chunk.toInt (assemblePayload s.cfgreg.W p)) := by
  have hreserved : ¬ (s.cfgreg.W < 64 ∧ payloadOverflows s.cfgreg.W p = true) := fun ⟨hW, hover⟩ => by
    simp [payloadOverflows_eq_false (hp hW)] at hover
  simp [execFill, coord, CfgReg.NP, hready.configured, hready.notFatal, hlen, hreserved]

/-- Settles O25: a cell lies in the chunk exactly when its element is one of those the FILL stores to. -/
theorem fillSetsTheCellsOfItsChunk : Obligations.FillSetsTheCellsOfItsChunk := by
  intro s row chunk p hinv hready hlen hp
  obtain ⟨hlegal, -⟩ := hinv.configured hready.configured
  refine ⟨_, execFill_of_ready row chunk hready hlen hp, by simp [hready.notFatal], by simp, by simp,
    buf_fillChunk_next s _ _ _, written_fillChunk s _ _ _, fun r c => ?_⟩
  have hcol := wrap_cast c hlegal.colsPos
  have hchunk := wrap_cast chunk.toInt hlegal.chunks_pos
  have hbit : (c % s.cfgreg.cols % s.cfgreg.W).toNat = wrap c s.cfgreg.cols % s.cfgreg.W := by
    rw [← hcol, ← Int.natCast_mod, Int.toNat_natCast]
  have hword : c % s.cfgreg.cols / s.cfgreg.W = chunk.toInt % ((s.cfgreg.cols / s.cfgreg.W : Nat) : Int) ↔
      wrap c s.cfgreg.cols / s.cfgreg.W = wrap chunk.toInt s.cfgreg.chunks := by
    rw [← CfgReg.chunks, ← hcol, ← hchunk, ← Int.natCast_div, Int.ofNat_inj]
  simp only [grid, fillChunk_cur, cell_fillChunk hlegal, hbit, hword, ← wrap_eq_wrap_iff hlegal.rowsPos,
    getLsbD_assemblePayload, Nat.mod_lt _ (s.cfgreg.W_pos), decide_true, Bool.true_and, payloadBit]

/-! ### The legal states -/

/-- Settles O51: nothing is written and no error has been raised. -/
theorem resetStateMeetsTheInvariant : Obligations.ResetStateMeetsTheInvariant := fun capacity =>
  { sorted := fun b => by cases b <;> exact Memory.wf_nil
    causeKnown := Nat.zero_le 8
    causeNone := by simp [State.resetWith]
    decPartial := rfl
    unconfigured := fun _ => ⟨rfl, rfl, rfl⟩
    configured := nofun
    stored := nofun }

/-- The codes that are raised are 0x01 .. 0x08 (rule R341). -/
theorem Cause.code_toNat_le (c : Cause) : c.code.toNat ≤ 8 := by cases c <;> decide

/-- NONE is never raised (rule R341). -/
theorem Cause.code_ne_zero (c : Cause) : c.code ≠ 0 := by cases c <;> decide

/-- A W-bit word is stored legally when, under STRAT 1, it sets only bit 0 of a slot (rule R31). -/
theorem storedLegal_setWidth {g : CfgReg} {v : BitVec g.W}
    (hslots : g.STRAT = 1 → ∀ i, v.getLsbD i = true → i % 4 = 0) : storedLegal g (v.setWidth 512) := by
  constructor
  · rw [BitVec.toNat_setWidth]
    exact lt_of_le_of_lt (Nat.mod_le _ _) v.isLt
  · intro hstrat i _ hbit
    rw [BitVec.getLsbD_setWidth, Bool.and_eq_true] at hbit
    exact hslots hstrat i hbit.2

/-- FILL stores legal words (rules R31, R131). -/
theorem storedLegal_fillWord (g : CfgReg) (v : BitVec g.W) (q : Nat) : storedLegal g (fillWord g v q) := by
  unfold fillWord
  split
  next hstrat => exact storedLegal_setWidth fun h => by simp [hstrat] at h
  next =>
    refine storedLegal_setWidth fun _ i hbit => ?_
    simp only [getLsbD_nibbleWord, Bool.and_eq_true, beq_iff_eq] at hbit
    exact hbit.2.1

/-- STEP computes legal words, whatever the current buffer holds: the nibble planes have slot bits only
(rules R31, R253). -/
theorem storedLegal_nextWord (s : State) (r k : Nat) : storedLegal s.cfgreg ((nextWord s r k).setWidth 512) := by
  refine storedLegal_setWidth fun hstrat i hbit => ?_
  rw [nextWord, getLsbD_evalRule _ _ (BitVec.lt_of_getLsbD hbit), countPlanes, if_neg (by simp [hstrat]),
    (getLsbD_nib _ i).2.1] at hbit
  simp only [Bool.and_eq_true, beq_iff_eq] at hbit
  exact hbit.1.1.2.2

/-- The next buffer after a STEP lists words of the grid only, each legal, when it did before. -/
theorem bufferLegal_nextBuffer {s : State} (hp : 1 ≤ s.cfgreg.workers) (h : bufferLegal s.cfgreg (s.buf (!s.cur))) :
    bufferLegal s.cfgreg (nextBuffer s) := by
  intro e he
  obtain ⟨rk, hrk, rfl⟩ | he := Memory.mem_foldl_write he
  · obtain ⟨hr, hk⟩ := (mem_stepWords hp).1 hrk
    exact ⟨rowMajor_lt hr hk, storedLegal_nextWord s rk.1 rk.2⟩
  · exact h e he

/-- The current buffer after a FILL lists words of the grid only, each legal, when it did before. -/
theorem bufferLegal_fillChunk {s : State} (hlegal : s.cfgreg.Legal) (row chunk : Int) (v : BitVec s.cfgreg.W)
    (h : bufferLegal s.cfgreg (s.buf s.cur)) : bufferLegal s.cfgreg ((fillChunk s row chunk v).buf s.cur) := by
  intro e he
  rw [buf_fillChunk_cur] at he
  obtain ⟨q, hq, rfl⟩ | he := Memory.mem_foldl_write he
  · exact ⟨rowMajor_lt (wrap_lt row hlegal.rowsPos) (hlegal.chunk_word_lt chunk (List.mem_range.1 hq)),
      storedLegal_fillWord s.cfgreg v q⟩
  · exact h e he

/-- What a successful CFG leaves in CFGREG is legal (rules R3 to R8, R23). -/
theorem legal_of_paramsLegal {strat : BitVec 2} {log2w log2l : BitVec 4} {rows cols : BitVec 32} (pm1 : BitVec 16)
    (hparams : paramsLegal strat log2w log2l rows cols = true) (hmultiple : cols.toNat % 2 ^ log2w.toNat = 0) :
    (⟨rows, cols, log2w, strat, log2l, pm1.setWidth 17 + 1⟩ : CfgReg).Legal := by
  obtain ⟨hstrat, hw3, hw9, hl3, hlw, hrows, hcols⟩ := paramsLegal_iff.1 hparams
  have hworkers := toNat_setWidth_add_one pm1
  refine ⟨hrows, hcols, hw3, hw9, ?_, hl3, hlw, ?_, ?_, hmultiple⟩
  · show strat = 0 ∨ strat = 1
    bv_omega
  · show 1 ≤ (pm1.setWidth 17 + 1).toNat
    omega
  · show (pm1.setWidth 17 + 1).toNat ≤ 65536
    have := pm1.isLt
    omega

/-! ### What keeps the invariant: one lemma for each operation -/

namespace State.Inv

variable {s : State}

protected theorem respond (h : s.Inv) (v : Word) : (respond v s).Inv := { h with }

protected theorem recordUninit (h : s.Inv) (bad : Bool) : (recordUninit bad s).Inv := { h with }

protected theorem takeResponse (h : s.Inv) : (takeResponse s).Inv := { h with }

/-- Moves of the host leave the engine, and so the invariant, alone while DEC holds less than a command. -/
theorem withChannel (h : s.Inv) {dec : List Word} (hdec : splitCommand dec = none) (host : List HostMove) :
    ({ s with dec := dec, host := host } : State).Inv := { h with decPartial := hdec }

protected theorem resetTransition (s : State) : (resetTransition s).Inv :=
  { resetStateMeetsTheInvariant s.capacity with }

/-- An error raised is a known cause, and only the first one is kept (rules R341, R345). -/
protected theorem raiseFatal (h : s.Inv) (c : Cause) : (raiseFatal c s).Inv := by
  cases hfatal : s.fatal with
  | true => rwa [raiseFatal_of_fatal hfatal]
  | false =>
    have heq : raiseFatal c s = { s with fatal := true, cause := c.code } := by simp [raiseFatal, hfatal]
    rw [heq]
    exact { h with causeKnown := c.code_toNat_le, causeNone := ⟨nofun, fun hc => absurd hc c.code_ne_zero⟩ }

protected theorem construct (h : s.Inv) {g : CfgReg} (hlegal : g.Legal)
    (hcapacity : 2 * g.rows * g.cols * g.s ≤ s.capacity) : (construct g s).Inv :=
  { h with
    sorted := fun b => by simp
    unconfigured := nofun
    configured := fun _ => ⟨hlegal, hcapacity⟩
    stored := fun _ b => by simp [bufferLegal] }

/-- A buffer of a constructed engine may be replaced by any legal one. -/
protected theorem setBuf (h : s.Inv) (hcfgd : s.cfgd = true) (b : Bool) {m : Memory} (hwf : Memory.wf m)
    (hm : bufferLegal s.cfgreg m) : (s.setBuf b m).Inv where
  sorted b' := by
    rw [buf_setBuf]
    split
    · exact hwf
    · exact h.sorted b'
  causeKnown := by simpa using h.causeKnown
  causeNone := by simpa using h.causeNone
  decPartial := by simpa using h.decPartial
  unconfigured hn := by simp [hcfgd] at hn
  configured := by simpa using h.configured
  stored _ b' := by
    rw [buf_setBuf, setBuf_cfgreg]
    split
    · exact hm
    · exact h.stored hcfgd b'

protected theorem swapBuffers (h : s.Inv) (hcfgd : s.cfgd = true) : (swapBuffers s).Inv :=
  { h with unconfigured := fun hn => absurd (hcfgd.symm.trans hn) nofun }

protected theorem advance (h : s.Inv) (hcfgd : s.cfgd = true) : (advance s).Inv := by
  obtain ⟨hlegal, -⟩ := h.configured hcfgd
  refine State.Inv.swapBuffers ((h.recordUninit _).setBuf hcfgd _ ?_ ?_) (by simpa)
  · exact Memory.wf_foldl_write _ _ _ (h.sorted _)
  · exact bufferLegal_nextBuffer hlegal.workersLow (h.stored hcfgd _)

protected theorem fillChunk (h : s.Inv) (hcfgd : s.cfgd = true) (row chunk : Int) (v : BitVec s.cfgreg.W) :
    (fillChunk s row chunk v).Inv := by
  obtain ⟨hlegal, -⟩ := h.configured hcfgd
  have hwf : Memory.wf ((fillChunk s row chunk v).buf s.cur) := by
    rw [buf_fillChunk_cur]
    exact Memory.wf_foldl_write _ _ _ (h.sorted _)
  have hbuf := bufferLegal_fillChunk hlegal row chunk v (h.stored hcfgd _)
  obtain ⟨m, hm⟩ := fillChunk_eq s row chunk v
  rw [hm, buf_setBuf, if_pos rfl] at hwf hbuf
  rw [hm]
  exact h.setBuf hcfgd _ hwf hbuf

end State.Inv

/-- Every command keeps the invariant, the failing ones too. -/
theorem exec_inv {i : Instr} {s t : State} (hinv : s.Inv) (h : exec i s = .next t) : t.Inv := by
  cases i with
  | cfg strat log2w log2l pm1 rows cols rsv p =>
    rcases execCfg_cases h with ⟨-, rfl⟩ | ⟨-, c, rfl⟩ | ⟨-, -, hparams, hmultiple, hstorage, rfl⟩
    · exact hinv
    · exact hinv.raiseFatal c
    · exact hinv.construct (legal_of_paramsLegal pm1 hparams hmultiple) hstorage
  | fill row chunk rsv p =>
    rcases execFill_cases h with ⟨-, rfl⟩ | ⟨-, c, rfl⟩ | ⟨-, hcfgd, -, rfl⟩
    · exact hinv
    · exact hinv.raiseFatal c
    · exact hinv.fillChunk hcfgd _ _ _
  | rdbit row col rsv p =>
    rcases execRdbit_cases h with ⟨-, rfl⟩ | ⟨-, c, rfl⟩ | ⟨-, -, rfl⟩
    · exact hinv.respond _
    · exact (hinv.raiseFatal c).respond _
    · exact (hinv.recordUninit _).respond _
  | step rsv h1 p =>
    rcases execStep_cases h with ⟨-, rfl⟩ | ⟨-, c, rfl⟩ | ⟨-, hcfgd, rfl⟩
    · exact hinv
    · exact hinv.raiseFatal c
    · exact hinv.advance hcfgd
  | stat rsv h1 p =>
    rcases execStat_cases h with rfl | ⟨-, c, rfl⟩
    · exact hinv.respond _
    · exact (hinv.raiseFatal c).respond _

/-- What a command taken off the channel can answer: the effect of its meaning, or the error of an illegal opcode
(rules R88, R344). -/
theorem runCommand_cases {h0 h1 : Word} {payload : List Word} {s t : State}
    (h : runCommand h0 h1 payload s = .next t) :
    (∃ i, decodeFields h0 h1 payload = .ok i ∧ exec i s = .next t) ∨
      ((∃ e, decodeFields h0 h1 payload = .error e) ∧ t = raiseFatal .illegalOpcode s) := by
  unfold runCommand at h
  split at h
  next i hfields => exact .inl ⟨i, hfields, h⟩
  next e hfields =>
    cases h
    exact .inr ⟨⟨e, hfields⟩, rfl⟩

/-- What a step can do: the reset input, a response taken, words left waiting in DEC, or one whole command
(rules R85, R356, R394). -/
theorem step_cases {s t : State} (h : step s = .next t) :
    (∃ ms, s.host = .reset :: ms ∧ t = resetTransition { s with host := ms }) ∨
    (∃ ms, s.host = .take :: ms ∧ t = takeResponse { s with host := ms }) ∨
    (splitCommand (s.dec ++ (leadingWords s.host).1) = none ∧
      t = { s with dec := s.dec ++ (leadingWords s.host).1, host := (leadingWords s.host).2 }) ∨
    ∃ h0 h1 payload rest, splitCommand (s.dec ++ (leadingWords s.host).1) = some (h0, h1, payload, rest) ∧
      runCommand h0 h1 payload { s with dec := [], host := sendWords rest ++ (leadingWords s.host).2 } = .next t := by
  unfold step nextTransition at h
  split at h
  next ms hms => cases h; exact .inl ⟨ms, hms, rfl⟩
  next ms hms => cases h; exact .inr (.inl ⟨ms, hms, rfl⟩)
  next =>
    unfold receive at h
    split at h
    next hsplit => cases h; exact .inr (.inr (.inl ⟨hsplit, rfl⟩))
    next h0 h1 payload rest hsplit => exact .inr (.inr (.inr ⟨h0, h1, payload, rest, hsplit, h⟩))

/-- Settles O50: each operation a step is made of keeps the invariant. -/
theorem everyStepKeepsTheInvariant : Obligations.EveryStepKeepsTheInvariant := by
  intro s t hinv h
  rcases step_cases h with ⟨ms, -, rfl⟩ | ⟨ms, -, rfl⟩ | ⟨hsplit, rfl⟩ | ⟨h0, h1, payload, rest, -, hrun⟩
  · exact State.Inv.resetTransition _
  · exact (hinv.withChannel hinv.decPartial ms).takeResponse
  · exact hinv.withChannel hsplit _
  · have hidle := hinv.withChannel (dec := []) rfl (sendWords rest ++ (leadingWords s.host).2)
    rcases runCommand_cases hrun with ⟨i, -, hexec⟩ | ⟨-, rfl⟩
    · exact exec_inv hidle hexec
    · exact hidle.raiseFatal _

/-! ### Seeding -/

/-- FILLs with the right LEN and no reserved payload bit complete one after the other; between them they write the
elements they store to and no other (rules R30, R60, R130). -/
theorem execAll_fills (fills : List (BitVec 32 × BitVec 32 × List Word)) {s : State} (hinv : s.Inv) (hready : s.Ready)
    (hfills : ∀ f ∈ fills, f.2.2.length = max 1 (s.cfgreg.W / 64) ∧
      (s.cfgreg.W < 64 → (f.2.2.headD 0).toNat < 2 ^ s.cfgreg.W)) :
    ∃ t, execAll (fills.map fun f => .fill f.1 f.2.1 0 f.2.2) s = .next t ∧ t.Inv ∧ t.Ready ∧ t.cur = s.cur ∧
      t.cfgreg = s.cfgreg ∧ t.uninitRead = s.uninitRead ∧
      ∀ i, t.written s.cur i = true ↔
        (∃ f ∈ fills, i ∈ fillElements s.cfgreg f.1.toInt f.2.1.toInt) ∨ s.written s.cur i = true := by
  induction fills generalizing s with
  | nil => exact ⟨s, rfl, hinv, hready, rfl, rfl, rfl, by simp⟩
  | cons f fills ih =>
    obtain ⟨⟨hlen, hp⟩, hrest⟩ := List.forall_mem_cons.1 hfills
    have hexec := execFill_of_ready f.1 f.2.1 hready hlen hp
    have hwritten := written_fillChunk s f.1.toInt f.2.1.toInt (assemblePayload s.cfgreg.W f.2.2)
    have huinv := hinv.fillChunk hready.configured f.1.toInt f.2.1.toInt (assemblePayload s.cfgreg.W f.2.2)
    have huready : (fillChunk s f.1.toInt f.2.1.toInt (assemblePayload s.cfgreg.W f.2.2)).Ready :=
      ⟨by simpa using hready.configured, by simpa using hready.notFatal⟩
    obtain ⟨t, ht, htinv, htready, hcur, hcfgreg, huninit, htwritten⟩ := ih huinv huready (by simpa using hrest)
    simp only [fillChunk_cur, fillChunk_cfgreg, fillChunk_uninitRead] at hcur hcfgreg huninit htwritten
    refine ⟨t, ?_, htinv, htready, hcur, hcfgreg, huninit, fun i => ?_⟩
    · simpa only [List.map_cons, execAll, exec, hexec] using ht
    · rw [htwritten, hwritten, List.exists_mem_cons_iff, or_assoc, or_left_comm]

/-- Every element of the grid is a word of the chunk of some row, which a FILL at that row and chunk stores to. -/
theorem exists_chunk_of_element {g : CfgReg} (h : g.Legal) {i : Nat} (hi : i < g.elements) :
    ∃ r k, r < g.rows ∧ k < g.chunks ∧
      ∀ row chunk : Int, row % g.rows = r → chunk % (g.chunks : Int) = k → i ∈ fillElements g row chunk := by
  have hwpr : 0 < g.wpr := by rw [h.wpr_eq]; exact Nat.mul_pos h.chunks_pos g.s_pos
  have hk : i % g.wpr / g.s < g.chunks :=
    Nat.div_lt_of_lt_mul (by rw [Nat.mul_comm, ← h.wpr_eq]; exact Nat.mod_lt i hwpr)
  refine ⟨i / g.wpr, i % g.wpr / g.s, Nat.div_lt_of_lt_mul (by rwa [Nat.mul_comm]), hk, ?_⟩
  intro row chunk hrow hchunk
  refine mem_fillElements.2 ⟨i % g.wpr % g.s, Nat.mod_lt _ g.s_pos, ?_⟩
  have hrow' : wrap row g.rows = i / g.wpr := by rw [wrap, hrow, Int.toNat_natCast]
  have hchunk' : wrap chunk g.chunks = i % g.wpr / g.s := by rw [wrap, hchunk, Int.toNat_natCast]
  rw [fillElement, hrow', hchunk', Nat.div_add_mod, Nat.div_add_mod']

/-- Settles O54: each element lies in a chunk that one of the FILLs meets. -/
theorem seedingFillsWriteEveryWord : Obligations.SeedingFillsWriteEveryWord := by
  intro s fills hinv hready hfills hcover
  obtain ⟨hlegal, -⟩ := hinv.configured hready.configured
  obtain ⟨t, ht, htinv, htready, hcur, hcfgreg, huninit, hwritten⟩ := execAll_fills fills hinv hready hfills
  refine ⟨t, ht, htinv, htready, ?_, hcur, hcfgreg, huninit⟩
  simp only [State.seeded, List.all_eq_true, List.mem_range, hcfgreg, hcur]
  intro i hi
  obtain ⟨r, k, hr, hk, hmem⟩ := exists_chunk_of_element hlegal hi
  obtain ⟨f, hf, hrow, hchunk⟩ := hcover r k hr hk
  exact (hwritten i).2 (.inl ⟨f, hf, hmem _ _ hrow hchunk⟩)

/-! ### The next buffer is not observable -/

/-- The current buffer alone decides NextWord (rules R29, R125). -/
theorem nextWord_setBuf_next (s : State) (m : Memory) (r k : Nat) :
    (nextWord (s.setBuf (!s.cur) m) r k).setWidth 512 = (nextWord s r k).setWidth 512 := by
  obtain ⟨cfgd, fatal, cause, cfgreg, cur, buf0, buf1⟩ := s
  cases cur <;> rfl

/-- The current buffer alone decides whether the engine is seeded (rules R29, R30). -/
theorem seeded_setBuf_next (s : State) (m : Memory) : (s.setBuf (!s.cur) m).seeded = s.seeded := by
  have hwritten : (s.setBuf (!s.cur) m).written s.cur = s.written s.cur := by
    funext i; simp [State.written]
  simp only [State.seeded, setBuf_cfgreg, setBuf_cur, hwritten]

/-- The cells of the current generation stand in the current buffer (rules R29, R53). -/
theorem cell_setBuf_next (s : State) (m : Memory) : cell (s.setBuf (!s.cur) m) s.cur = cell s s.cur := by
  funext row col; simp [cell, State.gread]

theorem raiseFatal_setBuf (c : Cause) (s : State) (b : Bool) (m : Memory) :
    raiseFatal c (s.setBuf b m) = (raiseFatal c s).setBuf b m := by
  cases b <;> unfold raiseFatal <;> split <;> simp_all [State.setBuf]

theorem respond_setBuf (v : Word) (s : State) (b : Bool) (m : Memory) :
    respond v (s.setBuf b m) = (respond v s).setBuf b m := by
  cases b <;> rfl

theorem statusWord_setBuf (s : State) (b : Bool) (m : Memory) : statusWord (s.setBuf b m) = statusWord s := by
  cases b <;> rfl

theorem construct_setBuf (g : CfgReg) (s : State) (b : Bool) (m : Memory) :
    construct g (s.setBuf b m) = construct g s := by
  cases b <;> rfl

theorem readCell_setBuf_next (s : State) (m : Memory) (row col : Int) :
    readCell (s.setBuf (!s.cur) m) row col = (readCell s row col).setBuf (!s.cur) m := by
  obtain ⟨cfgd, fatal, cause, cfgreg, cur, buf0, buf1⟩ := s
  cases cur <;> rfl

theorem fillChunk_setBuf_next (s : State) (m : Memory) (row chunk : Int) (p : List Word) :
    fillChunk (s.setBuf (!s.cur) m) row chunk (assemblePayload (s.setBuf (!s.cur) m).cfgreg.W p) =
      (fillChunk s row chunk (assemblePayload s.cfgreg.W p)).setBuf (!s.cur) m := by
  obtain ⟨cfgd, fatal, cause, cfgreg, cur, buf0, buf1⟩ := s
  by_cases hstrat : cfgreg.STRAT = 0#2
  · cases cur <;> simp [fillChunk, State.gwrite, State.setBuf, State.buf, hstrat]
  · cases cur <;> simp [fillChunk, State.setBuf, State.buf, hstrat]

/-- Two states that differ only in the next buffer yield the same (rules R29, R393). -/
theorem sameYield_setBuf_next (s : State) (m : Memory) : SameYield s (s.setBuf (!s.cur) m) where
  responses := by simp [State.responses]
  cfgd := (setBuf_cfgd _ _ _).symm
  fatal := (setBuf_fatal _ _ _).symm
  cause := (setBuf_cause _ _ _).symm
  cur := (setBuf_cur _ _ _).symm
  cells _ row col := by rw [grid, grid, setBuf_cur, cell_setBuf_next]

/-- The generation after a STEP is read off NextWord (rules R53, R281). -/
theorem cell_advance {s : State} (h : s.cfgreg.Legal) (row col : Int) :
    cell (advance s) (!s.cur) row col =
      ((nextWord s (wrap row s.cfgreg.rows) (wrap col s.cfgreg.cols / s.cfgreg.m)).setWidth 512).getLsbD
        (cellAddr s.cfgreg row col).2 := by
  have hread : (nextBuffer s).read (cellAddr s.cfgreg row col).1 = some _ :=
    read_nextBuffer h.workersLow (wrap_lt row h.rowsPos) (h.wrap_div_m_lt col)
  simp only [cell, State.gread, advance_cfgreg, buf_advance, if_true, hread, Option.getD_some]

/-- A STEP from two states that differ only in the next buffer yields the same: it overwrites every word of that buffer
before any read (rule R29). -/
theorem sameYield_advance {s : State} (h : s.cfgreg.Legal) (m : Memory) :
    SameYield (advance s) (advance (s.setBuf (!s.cur) m)) where
  responses := by simp [State.responses]
  cfgd := by simp
  fatal := by simp
  cause := by simp
  cur := by simp
  cells _ row col := by
    have h' : (s.setBuf (!s.cur) m).cfgreg.Legal := by rwa [setBuf_cfgreg]
    have hcell' := cell_advance h' row col
    rw [nextWord_setBuf_next, setBuf_cfgreg, setBuf_cur] at hcell'
    rw [grid, grid, advance_cur, advance_cur, setBuf_cur, cell_advance h, hcell']

/-- Two answers that yield the same whenever both are a next state. -/
def SameAnswer (o o' : Host.Outcome State Fault Refusal) : Prop :=
  ∀ t t', o = .next t → o' = .next t' → SameYield t t'

theorem SameAnswer.next {t t' : State} (h : SameYield t t') : SameAnswer (.next t) (.next t') := by
  rintro _ _ ⟨⟩ ⟨⟩
  exact h

theorem SameAnswer.next_setBuf (t : State) (m : Memory) {b : Bool} (hb : t.cur = b) :
    SameAnswer (.next t) (.next (t.setBuf (!b) m)) :=
  .next (hb ▸ sameYield_setBuf_next t m)

/-- A check that both states pass or both fail is settled branch by branch. -/
theorem SameAnswer.ite {c : Prop} [Decidable c] {o₁ o₂ o₁' o₂' : Host.Outcome State Fault Refusal}
    (hpos : c → SameAnswer o₁ o₁') (hneg : ¬ c → SameAnswer o₂ o₂') :
    SameAnswer (if c then o₁ else o₂) (if c then o₁' else o₂') := by
  split
  next hc => exact hpos hc
  next hc => exact hneg hc

/-- A STAT's own checks read no buffer (rule R320). -/
theorem checkStat_setBuf (rsv : BitVec 48) (h1 : Word) (p : List Word) (s : State) (b : Bool) (m : Memory) :
    checkStat rsv h1 p (s.setBuf b m) = (checkStat rsv h1 p s).setBuf b m := by
  simp only [checkStat, setBuf_fatal, raiseFatal_setBuf]
  split_ifs <;> rfl

theorem checkStat_cur (rsv : BitVec 48) (h1 : Word) (p : List Word) (s : State) :
    (checkStat rsv h1 p s).cur = s.cur := by
  unfold checkStat
  split_ifs <;> simp

/-- Every command answers two states that differ only in the next buffer alike: the checks read no buffer, FILL and
RDBIT use the current one, CFG clears both, and STEP writes every word of the next one (rule R29). -/
theorem sameAnswer_exec_setBuf_next {s : State} (hinv : s.Inv) (m : Memory) (i : Instr) :
    SameAnswer (exec i s) (exec i (s.setBuf (!s.cur) m)) := by
  cases i with
  | cfg =>
    simp only [exec, execCfg, failCommand, setBuf_fatal, setBuf_cfgd, setBuf_capacity, raiseFatal_setBuf,
      construct_setBuf]
    iterate 7 refine .ite (fun _ => .next_setBuf _ m (by simp)) fun _ => ?_
    exact .next ⟨rfl, rfl, rfl, rfl, rfl, fun _ _ _ => rfl⟩
  | fill =>
    simp only [exec, execFill, failCommand, setBuf_fatal, setBuf_cfgd, setBuf_cfgreg, raiseFatal_setBuf,
      fillChunk_setBuf_next]
    iterate 5 refine .ite (fun _ => .next_setBuf _ m (by simp)) fun _ => ?_
    exact .next_setBuf _ m (by simp)
  | rdbit =>
    simp only [exec, execRdbit, failRead, setBuf_fatal, setBuf_cfgd, raiseFatal_setBuf, respond_setBuf,
      readCell_setBuf_next]
    iterate 4 refine .ite (fun _ => .next_setBuf _ m (by simp)) fun _ => ?_
    exact .next_setBuf _ m (by simp)
  | step =>
    simp only [exec, execStep, failCommand, setBuf_fatal, setBuf_cfgd, raiseFatal_setBuf]
    iterate 2 refine .ite (fun _ => .next_setBuf _ m (by simp)) fun _ => ?_
    refine .ite (fun _ => .next_setBuf _ m (by simp)) fun hcfgd => ?_
    have hlegal := (hinv.configured (by simpa using hcfgd)).1
    exact .ite (fun _ => .next_setBuf _ m (by simp)) fun _ => .next (sameYield_advance hlegal m)
  | stat =>
    simp only [exec, execStat, checkStat_setBuf, statusWord_setBuf, respond_setBuf]
    exact .next_setBuf _ m (by simp [checkStat_cur])

/-- Settles O44: no command's answer shows the next buffer. -/
theorem nextBufferIsNotObservable : Obligations.NextBufferIsNotObservable :=
  fun _ t t' m i hinv h h' => sameAnswer_exec_setBuf_next hinv m i t t' h h'

/-! ### The channel, reset and the status word -/

/-- Settles O9, by the frame of the five meanings. -/
theorem commandsLeaveTheChannelAlone : Obligations.CommandsLeaveTheChannelAlone := fun _ _ _ h => exec_frame h

/-- Nothing is WRITTEN in an empty buffer (rule R30). -/
theorem written_of_buf_nil {s : State} {b : Bool} (h : s.buf b = []) (i : Nat) : s.written b i = false := by
  rw [State.written, h]; rfl

/-- Settles O12: the step is the reset transition, which empties both buffers. -/
theorem resetInputSetsTheResetState : Obligations.ResetInputSetsTheResetState := by
  intro s ms hhost
  refine ⟨resetTransition { s with host := ms }, by rw [step, nextTransition, hhost], rfl, rfl, rfl, rfl, rfl, rfl,
    rfl, fun b i => written_of_buf_nil (buf_resetTransition _ b) i, rfl⟩

/-- Settles O13: each component is the one written in the reset state, and both buffers are empty. -/
theorem resetStateIsTheSpecs : Obligations.ResetStateIsTheSpecs := fun _ =>
  ⟨rfl, rfl, rfl, rfl, fun b i => written_of_buf_nil (by cases b <;> rfl) i, rfl, rfl, rfl⟩

/-- The number of a word put together from two: the high part counts above the width of the low one. -/
theorem toNat_append_eq_add {a b : Nat} (x : BitVec a) (y : BitVec b) :
    (x ++ y).toNat = x.toNat * 2 ^ b + y.toNat := by
  rw [BitVec.toNat_append, ← Nat.shiftLeft_add_eq_or_of_lt y.isLt, Nat.shiftLeft_eq]

/-- The number of the STATUS word (rule R24). -/
theorem toNat_statusWord (s : State) :
    (statusWord s).toNat = s.cfgd.toNat + 2 * s.fatal.toNat + 4 * s.cur.toNat + 256 * s.cause.toNat := by
  simp only [statusWord, toNat_append_eq_add, BitVec.toNat_ofBool, BitVec.toNat_ofNat]
  omega

/-- Settles O32: a well-formed STAT raises nothing, and its word is STATUS. -/
theorem statRespondsTheStatusBits : Obligations.StatRespondsTheStatusBits := by
  intro s
  have hcheck : checkStat 0 0 [] s = s := by simp [checkStat]
  exact ⟨statusWord s, by simp only [exec, execStat, hcheck, respond], toNat_statusWord s⟩

end Sys2Proof.Machine
end

section
/-! PROOFS. Storage, addressing and ordering: the address map and the byte order (rules R51, R52, R54, R55), the frames of
FILL, RDBIT and STAT (rule R57), and that neither the workers nor the order of the words matter (rules R61, R290). -/

namespace Sys2Proof.Machine

/-! ### Addresses and the byte order -/

/-- Settles O23: each coordinate is reduced before anything else is done with it. -/
theorem congruentCoordinatesNameOneCell : Obligations.CongruentCoordinatesNameOneCell := by
  intro s b row col a e
  simp only [cell, cellAddr, wrap_add_mul]

/-- A slot of a word starts inside the word. -/
theorem slot_mul_lt {w s m j : Nat} (hw : m * s = w) (hs : 0 < s) (hj : j < m) : s * j < w := by
  rw [← hw, Nat.mul_comm m]
  exact Nat.mul_lt_mul_of_pos_left hj hs

/-- A cell's slot is a slot of its word (rules R6, R52). -/
theorem CfgReg.Legal.slot_lt_W {g : CfgReg} (h : g.Legal) {j : Nat} (hj : j < g.m) : g.s * j < g.W :=
  slot_mul_lt h.m_mul_s g.s_pos hj

/-- One address names one reduced column of one reduced row (rules R51, R52). -/
theorem CfgReg.Legal.wrap_eq_of_cellAddr_eq {g : CfgReg} (h : g.Legal) {row col row' col' : Int}
    (haddr : cellAddr g row col = cellAddr g row' col') :
    wrap row g.rows = wrap row' g.rows ∧ wrap col g.cols = wrap col' g.cols := by
  obtain ⟨helem, hbit⟩ := Prod.mk.inj haddr
  obtain ⟨hrow, hword⟩ := rowMajor_inj (h.wrap_div_m_lt col) (h.wrap_div_m_lt col') helem
  have hslot := Nat.eq_of_mul_eq_mul_left g.s_pos hbit
  exact ⟨hrow, by rw [← Nat.div_add_mod (wrap col g.cols) g.m, hword, hslot, Nat.div_add_mod]⟩

/-- Settles O24: element and bit are the row-major forms of row and word column, and of the slot. -/
theorem cellAddrIsInRangeAndInjective : Obligations.CellAddrIsInRangeAndInjective := by
  intro g h row col row' col'
  refine ⟨rowMajor_lt (wrap_lt row h.rowsPos) (h.wrap_div_m_lt col), h.slot_lt_W (Nat.mod_lt _ h.m_pos), ?_⟩
  intro haddr
  rw [← wrap_eq_wrap_iff h.rowsPos, ← wrap_eq_wrap_iff h.colsPos]
  exact h.wrap_eq_of_cellAddr_eq haddr

/-- A word is its eight bytes, byte 0 lowest (rule R55). -/
theorem append_bytes (w : Word) :
    w.extractLsb' 56 8 ++ w.extractLsb' 48 8 ++ w.extractLsb' 40 8 ++ w.extractLsb' 32 8 ++ w.extractLsb' 24 8 ++
      w.extractLsb' 16 8 ++ w.extractLsb' 8 8 ++ w.extractLsb' 0 8 = w := by
  refine BitVec.eq_of_getLsbD_eq (x := (_ : BitVec (8 + 8 + 8 + 8 + 8 + 8 + 8 + 8))) fun i hi => ?_
  simp only [BitVec.getLsbD_append, BitVec.getLsbD_extractLsb']
  interval_cases i <;> rfl

/-- The first eight bytes of a transport are its first word (rule R55). -/
theorem bytesToWords_wordToBytes_append (w : Word) (bs : List Byte) :
    bytesToWords (wordToBytes w ++ bs) = (w :: (bytesToWords bs).1, (bytesToWords bs).2) := by
  simp only [wordToBytes, List.cons_append, List.nil_append, bytesToWords]
  rw [append_bytes]

/-- Settles O4, word by word. -/
theorem byteTransportIsLittleEndian : Obligations.ByteTransportIsLittleEndian := by
  refine ⟨fun ws => ?_, fun w k hk => ?_⟩
  · induction ws with
    | nil => rfl
    | cons w ws ih => rw [wordsToBytes, bytesToWords_wordToBytes_append, ih]
  · interval_cases k <;> rfl

/-! ### Frames -/

/-- GRead sees the buffer and, where the element is unwritten, the construction and no other field (rules R12, R350). -/
theorem gread_congr {s t : State} {b : Bool} {i : Nat} (hread : (t.buf b).read i = (s.buf b).read i)
    (hepoch : t.epoch = s.epoch) : t.gread b i = s.gread b i := by
  rw [State.gread, State.gread, hread, hepoch]

/-- Outside the elements it stores to a FILL changes no element of either buffer (rules R130, R131). -/
theorem read_buf_fillChunk (s : State) {row chunk : Int} (v : BitVec s.cfgreg.W) {b : Bool} {i : Nat}
    (hi : b = s.cur → i ∉ fillElements s.cfgreg row chunk) :
    ((fillChunk s row chunk v).buf b).read i = (s.buf b).read i := by
  rcases Bool.eq_or_eq_not b s.cur with rfl | rfl
  · exact read_fillChunk_of_notMem s v (hi rfl)
  · rw [buf_fillChunk_next]

/-- Settles O26: a gated FILL changes nothing, a failing one FATAL and CAUSE, a completed one its elements. -/
theorem fillFrame : Obligations.FillFrame := by
  intro s t row chunk rsv p h
  rcases execFill_cases h with ⟨-, rfl⟩ | ⟨hfatal, c, rfl⟩ | ⟨-, -, -, rfl⟩
  · simp
  · simp [hfatal, State.gread]
  · simp only [fillChunk_cfgd, fillChunk_cfgreg, fillChunk_cur, fillChunk_dec, fillChunk_rspq, fillChunk_taken,
      fillChunk_uninitRead, fillChunk_epoch, fillChunk_capacity, fillChunk_host, fillChunk_cause, implies_true, true_and]
    intro b i hi
    have hread := read_buf_fillChunk s (assemblePayload s.cfgreg.W p) hi
    exact ⟨hread, gread_congr hread (fillChunk_epoch ..)⟩

/-- Settles O29: a RDBIT and a STAT respond, record and raise, and touch no other field. -/
theorem readingCommandsFrame : Obligations.ReadingCommandsFrame := by
  rintro s t i (⟨row, col, rsv, p, rfl⟩ | ⟨rsv, h1, p, rfl⟩) h
  · rcases execRdbit_cases h with ⟨-, rfl⟩ | ⟨hfatal, c, rfl⟩ | ⟨-, -, rfl⟩
    · simp [State.gread]
    · simp [State.gread, hfatal]
    · simp [State.gread]
  · rcases execStat_cases h with rfl | ⟨hfatal, c, rfl⟩
    · simp [State.gread]
    · simp [State.gread, hfatal]

/-! ### Workers and order -/

/-- Writes to different elements leave the same in whatever order and however often they are done. -/
theorem Memory.read_foldl_write_congr {α : Type} {l l' : List α} {key : α → Nat} {val : α → GridWord} (m : Memory)
    (hmem : ∀ a, a ∈ l ↔ a ∈ l') (hinj : ∀ a ∈ l, ∀ b ∈ l, key a = key b → a = b) (i : Nat) :
    (l.foldl (fun m a => m.write (key a) (val a)) m).read i =
      (l'.foldl (fun m a => m.write (key a) (val a)) m).read i := by
  by_cases hex : ∃ a ∈ l, key a = i
  · obtain ⟨a, ha, rfl⟩ := hex
    have hval : ∀ b ∈ l, key b = key a → val b = val a := fun b hb hkey => by rw [hinj b hb a ha hkey]
    rw [Memory.read_foldl_write_same m ⟨a, ha, rfl⟩ hval,
      Memory.read_foldl_write_same m ⟨a, (hmem a).1 ha, rfl⟩ fun b hb => hval b ((hmem b).2 hb)]
  · simp only [not_exists, not_and] at hex
    rw [Memory.read_foldl_write_other m hex, Memory.read_foldl_write_other m fun a ha => hex a ((hmem a).2 ha)]

/-- The words of a STEP, in the order of rule R291, are those of every row in turn, for every worker count. -/
theorem stepWords_eq {g : CfgReg} (hp : 1 ≤ g.workers) :
    stepWords g = (List.range g.rows).flatMap fun r => (List.range g.wpr).map fun k => (r, k) := by
  rw [stepWords, flatMap_workerRows hp]

/-- Every worker count leaves the same next buffer (rule R290). -/
theorem nextBuffer_workers (s : State) {p : BitVec 17} (hs : 1 ≤ s.cfgreg.workers) (hp : 1 ≤ p.toNat) :
    nextBuffer { s with cfgreg := { s.cfgreg with P := p } } = nextBuffer s := by
  have hwords : stepWords { s.cfgreg with P := p } = stepWords s.cfgreg := by
    rw [stepWords_eq hs, stepWords_eq (g := { s.cfgreg with P := p }) hp]
    rfl
  show (stepWords { s.cfgreg with P := p }).foldl _ _ = _
  rw [hwords]
  rfl

/-- Settles O46: P partitions the rows and nothing else, and no two words share an element. -/
theorem workersAndOrderDoNotMatter : Obligations.WorkersAndOrderDoNotMatter := by
  constructor
  · intro s p hready hs hp
    have hready' : ({ s with cfgreg := { s.cfgreg with P := p } } : State).Ready :=
      ⟨hready.configured, hready.notFatal⟩
    have hbuf (b : Bool) : (advance { s with cfgreg := { s.cfgreg with P := p } }).buf b = (advance s).buf b := by
      rw [buf_advance, buf_advance, nextBuffer_workers s hs hp]
      rfl
    exact ⟨_, _, execStep_of_ready hready, execStep_of_ready hready', hbuf false, hbuf true, by simp⟩
  · intro s order hp horder i
    refine Memory.read_foldl_write_congr _ (fun rk => (horder rk.1 rk.2).trans (mem_stepWords hp).symm) ?_ i
    rintro ⟨r, k⟩ hmem ⟨r', k'⟩ hmem' hkey
    obtain ⟨rfl, rfl⟩ := rowMajor_inj ((horder r k).1 hmem).2 ((horder r' k').1 hmem').2 hkey
    rfl

end Sys2Proof.Machine
end

section
/-! PROOFS. The generation a STEP computes is Conway's (rules R161, R171, R204, R234, R254, R284), so a RDBIT after it
sees that generation (rules R62, R384). -/

namespace Sys2Proof.Machine

/-! ### The vector shift is the scalar shift -/

/-- Where bit t of lane q stands in the word (rule R27). -/
theorem getLsbD_lane_of_index {w l : Nat} (v : BitVec w) {q t i : Nat} (ht : t < l) (hi : q * l + t = i) :
    (lane l v q).getLsbD t = v.getLsbD i := by
  rw [getLsbD_lane, decide_eq_true ht, Bool.true_and, hi]

section Lanes

variable {l s n : Nat} (v below above : BitVec (l * (n + 1)))

/-- The top slot of a word is the top slot of its last lane. -/
theorem setWidth_ushiftRight_eq_lane (hs : s ≤ l) :
    (v >>> (l * (n + 1) - s)).setWidth l = lane l v n >>> (l - s) := by
  apply BitVec.eq_of_getLsbD_eq
  intro t ht
  rw [BitVec.getLsbD_setWidth, BitVec.getLsbD_ushiftRight, BitVec.getLsbD_ushiftRight, decide_eq_true ht, Bool.true_and]
  have hw : l * (n + 1) = n * l + l := by ring
  by_cases hts : t < s
  · exact (getLsbD_lane_of_index v (by omega) (by omega)).symm
  · rw [BitVec.getLsbD_of_ge v _ (by omega), BitVec.getLsbD_of_ge _ _ (by omega)]

/-- A lane is shifted as a word is, between its two neighbor lanes; the outer lanes stand beside a lane of the word
below or above (rule R170). -/
theorem shiftLane_eq_shiftScalar (dx : Delta) (q : Nat) (hs : s ≤ l) :
    shiftLane l s (n + 1) dx v below above q =
      shiftScalar s dx (lane l v q) (if 0 < q then lane l v (q - 1) else lane l below n)
        (if q < n then lane l v (q + 1) else lane l above 0) := by
  cases dx with
  | zero => rfl
  | minus =>
    rw [shiftLane, shiftScalar, setWidth_ushiftRight_eq_lane below hs]
    split <;> rfl
  | plus =>
    have habove : above.setWidth l = lane l above 0 := by
      apply BitVec.eq_of_getLsbD_eq
      intro t ht
      rw [BitVec.getLsbD_setWidth, getLsbD_lane, Nat.zero_mul, Nat.zero_add]
    rw [shiftLane, shiftScalar, habove, Nat.add_sub_cancel]

/-- Bit t of lane q shifted to the higher index is the bit of the whole word shifted so (rules R164, R171). -/
theorem getLsbD_shiftLane_minus {q t : Nat} (hs : s ≤ l) (ht : t < l) (hi : q * l + t < l * (n + 1)) :
    (shiftLane l s (n + 1) .minus v below above q).getLsbD t =
      (shiftScalar s .minus v below above).getLsbD (q * l + t) := by
  have hw : l * (n + 1) = n * l + l := by ring
  rw [shiftLane_eq_shiftScalar v below above _ _ hs, getLsbD_shiftScalar_minus _ _ _ hs ht,
    getLsbD_shiftScalar_minus _ _ _ (by omega) hi]
  by_cases hts : t < s
  · rw [if_pos hts]
    cases q with
    | zero =>
      rw [if_neg (lt_irrefl 0), if_pos (by omega)]
      exact getLsbD_lane_of_index below (by omega) (by omega)
    | succ q =>
      have hq : (q + 1) * l = q * l + l := Nat.succ_mul q l
      rw [if_pos q.succ_pos, if_neg (by omega), Nat.add_sub_cancel]
      exact getLsbD_lane_of_index v (by omega) (by omega)
  · rw [if_neg hts, if_neg (by omega)]
    exact getLsbD_lane_of_index v (by omega) (by omega)

/-- Bit t of lane q shifted to the lower index is the bit of the whole word shifted so (rules R165, R171). -/
theorem getLsbD_shiftLane_plus {q t : Nat} (hs : s ≤ l) (ht : t < l) (hq : q ≤ n) (hi : q * l + t < l * (n + 1)) :
    (shiftLane l s (n + 1) .plus v below above q).getLsbD t =
      (shiftScalar s .plus v below above).getLsbD (q * l + t) := by
  have hw : l * (n + 1) = n * l + l := by ring
  have hle : q * l ≤ n * l := Nat.mul_le_mul_right l hq
  have hsucc : (q + 1) * l = q * l + l := Nat.succ_mul q l
  rw [shiftLane_eq_shiftScalar v below above _ _ hs, getLsbD_shiftScalar_plus _ _ _ hs ht,
    getLsbD_shiftScalar_plus _ _ _ (by omega) hi]
  by_cases hts : t + s < l
  · rw [if_pos hts, if_pos (by omega)]
    exact getLsbD_lane_of_index v hts (by omega)
  · rw [if_neg hts]
    rcases hq.lt_or_eq with hqn | rfl
    · have hle' : (q + 1) * l ≤ n * l := Nat.mul_le_mul_right l hqn
      rw [if_pos hqn, if_pos (by omega)]
      exact getLsbD_lane_of_index v (by omega) (by omega)
    · rw [if_neg (lt_irrefl q), if_neg (by omega)]
      exact getLsbD_lane_of_index above (by omega) (by omega)

end Lanes

/-- The vector form computes the scalar neighbor word (rule R171). -/
theorem shiftVector_eq_shiftScalar {w l s : Nat} (dx : Delta) (v below above : BitVec w) (hdvd : l ∣ w) (hl : 0 < l)
    (hs : s ≤ l) : shiftVector l s dx v below above = shiftScalar s dx v below above := by
  obtain ⟨lanes, rfl⟩ := hdvd
  apply BitVec.eq_of_getLsbD_eq
  intro i hi
  have ht : i % l < l := Nat.mod_lt i hl
  have hq : i / l < lanes := Nat.div_lt_of_lt_mul hi
  have hsplit : i / l * l + i % l = i := Nat.div_add_mod' i l
  obtain _ | n := lanes
  · exact absurd hq (Nat.not_lt_zero _)
  rw [getLsbD_shiftVector, decide_eq_true hi, Bool.true_and, Nat.mul_div_cancel_left _ hl]
  cases dx with
  | zero => exact getLsbD_lane_of_index v ht hsplit
  | minus => rw [getLsbD_shiftLane_minus v below above hs ht (hsplit.symm ▸ hi), hsplit]
  | plus => rw [getLsbD_shiftLane_plus v below above hs ht (by omega) (hsplit.symm ▸ hi), hsplit]

/-- In a legal configuration the lane width changes no neighbor word (rules R7, R171). -/
theorem shiftWord_eq_shiftScalar {g : CfgReg} (h : g.Legal) (dx : Delta) (v below above : BitVec g.W) :
    shiftWord g dx v below above = shiftScalar g.s dx v below above := by
  have hs : g.s ≤ g.L := by
    have hL : 8 ≤ g.L := Nat.pow_le_pow_right (n := 2) (by omega) h.log2lLow
    rcases g.s_cases with ⟨-, hs⟩ | ⟨-, hs⟩ <;> omega
  unfold shiftWord
  split
  · rfl
  · exact shiftVector_eq_shiftScalar dx v below above (Nat.pow_dvd_pow 2 h.log2lHigh) (Nat.two_pow_pos _) hs

/-! ### The counters -/

/-- The carry-save planes at one bit, for any number of neighbor words (rules R202, R204). -/
theorem getLsbD_csc {w : Nat} (ns : List (BitVec w)) (i : Nat) :
    (csc ns).b1.getLsbD i = decide (ns.countP (·.getLsbD i) % 2 = 1) ∧
    (csc ns).b2.getLsbD i = decide (ns.countP (·.getLsbD i) / 2 % 2 = 1) ∧
    (csc ns).b4.getLsbD i = decide (4 ≤ ns.countP (·.getLsbD i)) := by
  induction ns using List.reverseRecOn with
  | nil => simp [csc]
  | append_singleton ns v ih =>
    obtain ⟨h1, h2, h4⟩ := ih
    have hfold : csc (ns ++ [v]) = foldNeighbor (csc ns) v := by simp [csc]
    obtain ⟨f1, f2, f4⟩ := getLsbD_foldNeighbor (csc ns) v i
    rw [hfold, f1, f2, f4, h1, h2, h4, List.countP_append, List.countP_singleton]
    generalize ns.countP (·.getLsbD i) = n
    cases v.getLsbD i with
    | false => simp
    | true =>
      refine ⟨?_, ?_, ?_⟩
      · rw [Bool.xor_true, ← decide_not, decide_eq_decide, if_pos rfl]
        omega
      · rw [Bool.and_true, Bool.eq_iff_iff, Bool.xor_iff_ne, ne_eq, decide_eq_decide, decide_eq_true_eq, if_pos rfl]
        omega
      · rw [Bool.and_true, ← Bool.decide_and, ← Bool.decide_or, decide_eq_decide, if_pos rfl]
        omega

/-- Digit t of a number in base 16: slot t of a word under STRAT 1 (rule R131). -/
def nibble (x t : Nat) : Nat := x / 16 ^ t % 16

/-- Where no digit sum carries, no low part carries. -/
theorem mod_add_mod_lt_of_nibble {x y : Nat} (h : ∀ t, nibble x t + nibble y t < 16) (t : Nat) :
    x % 16 ^ t + y % 16 ^ t < 16 ^ t := by
  induction t with
  | zero => simp [Nat.mod_one]
  | succ t ih =>
    have ht := h t
    unfold nibble at ht
    have : 16 ^ t * (x / 16 ^ t % 16 + y / 16 ^ t % 16 + 1) ≤ 16 ^ t * 16 := Nat.mul_le_mul_left _ (by omega)
    rw [Nat.pow_succ, Nat.mod_mul, Nat.mod_mul]
    linarith

/-- Where no digit sum carries, the digits of a sum are the sums of the digits. -/
theorem nibble_add {x y : Nat} (h : ∀ t, nibble x t + nibble y t < 16) (t : Nat) :
    nibble (x + y) t = nibble x t + nibble y t := by
  have hlow := mod_add_mod_lt_of_nibble h t
  have hdiv : (x + y) / 16 ^ t = x / 16 ^ t + y / 16 ^ t := by
    rw [Nat.add_div (by positivity), if_neg (by omega), Nat.add_zero]
  rw [nibble, hdiv, Nat.add_mod]
  exact Nat.mod_eq_of_lt (h t)

/-- The bits of a digit are the bits of its slot. -/
theorem testBit_nibble (x t k : Nat) : (nibble x t).testBit k = (decide (k < 4) && x.testBit (4 * t + k)) := by
  have h16 : 16 ^ t = 2 ^ (4 * t) := Nat.pow_mul 2 4 t ▸ rfl
  rw [nibble, h16, show 16 = 2 ^ 4 from rfl, Nat.testBit_mod_two_pow, Nat.testBit_div_two_pow, Nat.add_comm]

/-- A word with bit 0 of each slot only, as the stored words are under STRAT 1 (rule R31). -/
def SlotsHoldBits {w : Nat} (v : BitVec w) : Prop := ∀ b, v.getLsbD b = true → b % 4 = 0

/-- A slot that holds its bit only is 0 or 1. -/
theorem nibble_of_slotsHoldBits {w : Nat} {v : BitVec w} (h : SlotsHoldBits v) (t : Nat) :
    nibble v.toNat t = (v.getLsbD (4 * t)).toNat := by
  apply Nat.eq_of_testBit_eq
  intro k
  rw [testBit_nibble, BitVec.testBit_toNat]
  cases k with
  | zero => cases v.getLsbD (4 * t) <;> rfl
  | succ k =>
    have hhigh : (v.getLsbD (4 * t)).toNat.testBit (k + 1) = false := by
      cases v.getLsbD (4 * t) <;> simp [Nat.testBit_succ]
    rw [hhigh, Bool.and_eq_false_imp, decide_eq_true_eq]
    intro hk
    by_contra hbit
    have := h _ (Bool.eq_true_of_not_eq_false hbit)
    omega

/-- The sum of at most fifteen neighbor words holds in each slot its count: no slot carries (rules R252, R254). -/
theorem nibble_nibbleSum {w : Nat} (hw : w % 4 = 0) {ns : List (BitVec w)} (hlen : ns.length ≤ 15)
    (hns : ∀ v ∈ ns, SlotsHoldBits v) (t : Nat) :
    nibble (nibbleSum ns).toNat t = ns.countP (·.getLsbD (4 * t)) := by
  induction ns using List.reverseRecOn generalizing t with
  | nil => simp [nibbleSum, nibble]
  | append_singleton ns v ih =>
    simp only [List.length_append, List.length_singleton] at hlen
    have ih' := ih (by omega) fun u hu => hns u (by simp [hu])
    have hv := nibble_of_slotsHoldBits (hns v (by simp))
    have hnoCarry : ∀ t, nibble (nibbleSum ns).toNat t + nibble v.toNat t < 16 := by
      intro t
      have hcount := List.countP_le_length (p := (·.getLsbD (4 * t))) (l := ns)
      have hb := (v.getLsbD (4 * t)).toNat_le
      rw [ih' t, hv t]
      omega
    have hfits : (nibbleSum ns).toNat + v.toNat < 2 ^ w := by
      have h16 : 16 ^ (w / 4) = 2 ^ w := by
        rw [show 16 = 2 ^ 4 from rfl, ← Nat.pow_mul, Nat.mul_div_cancel' (Nat.dvd_of_mod_eq_zero hw)]
      have hlow := mod_add_mod_lt_of_nibble hnoCarry (w / 4)
      rwa [h16, Nat.mod_eq_of_lt (BitVec.isLt _), Nat.mod_eq_of_lt (BitVec.isLt _)] at hlow
    have hsum : nibbleSum (ns ++ [v]) = nibbleSum ns + v := by simp [nibbleSum]
    rw [hsum, BitVec.toNat_add_of_lt hfits, nibble_add hnoCarry, ih' t, hv t, List.countP_append, List.countP_singleton]
    cases v.getLsbD (4 * t) <;> rfl

/-- The nibble planes at bit 0 of a slot (rules R253, R254). -/
theorem getLsbD_nib_slot {w : Nat} (hw : w % 4 = 0) {ns : List (BitVec w)} (hlen : ns.length ≤ 15)
    (hns : ∀ v ∈ ns, SlotsHoldBits v) {i : Nat} (hi : i < w) (hslot : i % 4 = 0) :
    (nib ns).b1.getLsbD i = decide (ns.countP (·.getLsbD i) % 2 = 1) ∧
    (nib ns).b2.getLsbD i = decide (ns.countP (·.getLsbD i) / 2 % 2 = 1) ∧
    (nib ns).b4.getLsbD i = decide (ns.countP (·.getLsbD i) / 4 % 2 = 1) := by
  obtain ⟨t, rfl⟩ := Nat.dvd_of_mod_eq_zero hslot
  have hbit {k : Nat} (hk : k < 4) :
      (nibbleSum ns).getLsbD (k + 4 * t) = (ns.countP (·.getLsbD (4 * t))).testBit k := by
    rw [← nibble_nibbleSum hw hlen hns t, testBit_nibble, decide_eq_true hk, Bool.true_and, BitVec.testBit_toNat,
      Nat.add_comm]
  obtain ⟨h1, h2, h4⟩ := getLsbD_nib ns (4 * t)
  have hb1 := hbit (k := 0) (by omega)
  rw [Nat.zero_add] at hb1
  rw [h1, h2, h4, hb1, hbit (by omega), hbit (by omega)]
  simp [hi, Nat.testBit_eq_decide_div_mod_eq]

/-! ### The rule -/

/-- Birth on three, survival on two or three (rule R234). -/
theorem b3s23_iff {n : Nat} {a : Bool} : b3s23 n a = true ↔ n = 3 ∨ n = 2 ∧ a = true := by
  unfold b3s23
  split_ifs <;> simp_all

/-- The rule on carry-save planes is Conway's rule on the count (rules R231, R234). -/
theorem getLsbD_evalRule_csc {w : Nat} (ns : List (BitVec w)) (alive : BitVec w) {i : Nat} (hi : i < w) :
    (evalRule (csc ns) alive).getLsbD i = b3s23 (ns.countP (·.getLsbD i)) (alive.getLsbD i) := by
  obtain ⟨h1, h2, h4⟩ := getLsbD_csc ns i
  rw [getLsbD_evalRule _ _ hi, h1, h2, h4, Bool.eq_iff_iff, b3s23_iff]
  cases alive.getLsbD i <;> simp <;> omega

/-- The rule on nibble planes is Conway's rule on the count of a slot; a count of 8 has b2 = 0 (rules R234, R255). -/
theorem getLsbD_evalRule_nib {w : Nat} (hw : w % 4 = 0) {ns : List (BitVec w)} (hlen : ns.length ≤ 8)
    (hns : ∀ v ∈ ns, SlotsHoldBits v) (alive : BitVec w) {i : Nat} (hi : i < w) (hslot : i % 4 = 0) :
    (evalRule (nib ns) alive).getLsbD i = b3s23 (ns.countP (·.getLsbD i)) (alive.getLsbD i) := by
  obtain ⟨h1, h2, h4⟩ := getLsbD_nib_slot hw (by omega) hns hi hslot
  have hcount := (List.countP_le_length (p := (·.getLsbD i)) (l := ns)).trans hlen
  rw [getLsbD_evalRule _ _ hi, h1, h2, h4, Bool.eq_iff_iff, b3s23_iff]
  cases alive.getLsbD i <;> simp <;> omega

/-! ### The grid -/

/-- The columns of a row are those of its words (rule R6). -/
theorem CfgReg.Legal.wpr_mul_m {g : CfgReg} (h : g.Legal) : g.wpr * g.m = g.cols := by
  rw [h.wpr_eq, ← h.chunks_mul_W, ← h.m_mul_s]; ring

theorem CfgReg.Legal.wpr_pos {g : CfgReg} (h : g.Legal) : 0 < g.wpr :=
  Nat.pos_of_mul_pos_right (h.wpr_mul_m ▸ h.colsPos)

/-- Reducing a column reduces its word column and keeps its slot (rules R52, R125). -/
theorem wrap_mul_add (k : Int) {n m j : Nat} (hn : 0 < n) (hj : j < m) :
    wrap (k * m + j) (n * m) = wrap k n * m + j := by
  have hk : ((wrap k n : Nat) : Int) = k % n := wrap_cast k hn
  have hsplit : k * m + j = ((wrap k n * m + j : Nat) : Int) + k / n * ((n * m : Nat) : Int) := by
    push_cast
    rw [hk]
    linear_combination (-(m : Int)) * Int.emod_add_mul_ediv k n
  rw [hsplit, wrap_add_mul, wrap_of_lt (rowMajor_lt (wrap_lt k hn) hj)]

/-- A reduced coordinate moved by an offset reduces like the coordinate moved (rules R52, R54). -/
theorem wrap_wrap_add (x d : Int) {n : Nat} (hn : 0 < n) : wrap ((wrap x n : Nat) + d) n = wrap (x + d) n := by
  rw [wrap_eq_wrap_iff hn, wrap_cast x hn, Int.emod_add_emod]

/-- Slot j of word (r, k) is the cell at row r and column k * m + j, all wrapped (rules R52, R125). -/
theorem getLsbD_gword_slot {s : State} (h : s.cfgreg.Legal) (r k : Int) {j : Nat} (hj : j < s.cfgreg.m) :
    (gword s r k).getLsbD (s.cfgreg.s * j) = grid s r (k * s.cfgreg.m + j) := by
  have hcol : wrap (k * s.cfgreg.m + j) s.cfgreg.cols = wrap k s.cfgreg.wpr * s.cfgreg.m + j := by
    rw [← h.wpr_mul_m, wrap_mul_add k h.wpr_pos hj]
  have hdiv : (wrap k s.cfgreg.wpr * s.cfgreg.m + j) / s.cfgreg.m = wrap k s.cfgreg.wpr := by
    rw [Nat.mul_comm, Nat.mul_add_div h.m_pos, Nat.div_eq_of_lt hj, Nat.add_zero]
  have hmod : (wrap k s.cfgreg.wpr * s.cfgreg.m + j) % s.cfgreg.m = j := by
    rw [Nat.mul_add_mod_self_right, Nat.mod_eq_of_lt hj]
  rw [getLsbD_gword, decide_eq_true (h.slot_lt_W hj), Bool.true_and, grid, cell, cellAddr, hcol, hdiv, hmod]

/-- The shift to the higher index, slot by slot: the slot below, or the top slot of the word below (rule R164). -/
theorem getLsbD_shiftScalar_minus_slot {w s m j : Nat} (v below above : BitVec w) (hw : m * s = w) (hs : 0 < s)
    (hj : j < m) :
    (shiftScalar s .minus v below above).getLsbD (s * j) =
      if j = 0 then below.getLsbD (s * (m - 1)) else v.getLsbD (s * (j - 1)) := by
  have hbit := slot_mul_lt hw hs hj
  have hfit : s ≤ w := hw ▸ Nat.le_mul_of_pos_left s (by omega)
  rw [getLsbD_shiftScalar_minus _ _ _ hfit hbit, Nat.mul_sub_one, Nat.mul_sub_one, Nat.mul_comm s m, hw]
  cases j with
  | zero => simp [hs]
  | succ j => simp [Nat.mul_succ]

/-- The shift to the lower index, slot by slot: the slot above, or the bottom slot of the word above (rule R165). -/
theorem getLsbD_shiftScalar_plus_slot {w s m j : Nat} (v below above : BitVec w) (hw : m * s = w) (hs : 0 < s)
    (hj : j < m) :
    (shiftScalar s .plus v below above).getLsbD (s * j) =
      if j + 1 < m then v.getLsbD (s * (j + 1)) else above.getLsbD (s * 0) := by
  have hbit := slot_mul_lt hw hs hj
  have hfit : s ≤ w := hw ▸ Nat.le_mul_of_pos_left s (by omega)
  have hlast : s * j + s < w ↔ j + 1 < m := by
    rw [← hw, Nat.mul_comm m, ← Nat.mul_succ, Nat.mul_lt_mul_left hs]
  have hover : ¬ j + 1 < m → s * j + s - w = s * 0 := by
    intro hj'
    rw [← hw, ← Nat.mul_succ, show j.succ = m by omega, Nat.mul_comm, Nat.sub_self, Nat.mul_zero]
  rw [getLsbD_shiftScalar_plus _ _ _ hfit hbit]
  by_cases hj' : j + 1 < m
  · rw [if_pos (hlast.2 hj'), if_pos hj', Nat.mul_succ]
  · rw [if_neg (mt hlast.1 hj'), if_neg hj', hover hj']

/-- Slot j of Nbr(dx, dy, r, k) is the cell at row r + dy and column k * m + j + dx, wrapped (rule R161). -/
theorem getLsbD_nbr_slot {s : State} (h : s.cfgreg.Legal) (dx dy : Delta) (r k : Int) {j : Nat} (hj : j < s.cfgreg.m) :
    (nbr s dx dy r k).getLsbD (s.cfgreg.s * j) = grid s (r + dy.toInt) (k * s.cfgreg.m + j + dx.toInt) := by
  rw [nbr, shiftWord_eq_shiftScalar h]
  cases dx with
  | zero => rw [shiftScalar, getLsbD_gword_slot h _ _ hj, Delta.toInt, Int.add_zero]
  | minus =>
    rw [getLsbD_shiftScalar_minus_slot _ _ _ h.m_mul_s s.cfgreg.s_pos hj]
    split <;> rw [getLsbD_gword_slot h _ _ (by omega)] <;> congr 1
    · push_cast [Delta.toInt, Nat.cast_sub (show 1 ≤ s.cfgreg.m from h.m_pos), ‹j = 0›]
      ring
    · push_cast [Delta.toInt, Nat.cast_sub (show 1 ≤ j by omega)]
      ring
  | plus =>
    rw [getLsbD_shiftScalar_plus_slot _ _ _ h.m_mul_s s.cfgreg.s_pos hj]
    split <;> rw [getLsbD_gword_slot h _ _ (by omega)] <;> congr 1
    · push_cast [Delta.toInt]
      ring
    · push_cast [Delta.toInt, show s.cfgreg.m = j + 1 by omega]
      ring

/-- The eight neighbor words count the live neighbors of every cell (rules R167, R169). -/
theorem countP_neighborWords {s : State} (h : s.cfgreg.Legal) (r k : Int) {j : Nat} (hj : j < s.cfgreg.m) :
    (neighborWords s r k).countP (·.getLsbD (s.cfgreg.s * j)) = liveNeighbors (grid s) r (k * s.cfgreg.m + j) := by
  rw [neighborWords, List.countP_map, liveNeighbors]
  congr 1
  funext d
  exact getLsbD_nbr_slot h d.1 d.2 r k hj

/-- Conway's rule gives congruent coordinates one cell (rules R54, R284). -/
theorem life_grid_wrap {s : State} (h : s.cfgreg.Legal) (row col : Int) :
    life (grid s) (wrap row s.cfgreg.rows : Nat) (wrap col s.cfgreg.cols : Nat) = life (grid s) row col := by
  have hmove (dy dx : Int) : grid s ((wrap row s.cfgreg.rows : Nat) + dy) ((wrap col s.cfgreg.cols : Nat) + dx) =
      grid s (row + dy) (col + dx) := by
    simp only [grid, cell, cellAddr, wrap_wrap_add _ _ h.rowsPos, wrap_wrap_add _ _ h.colsPos]
  have hself : grid s (wrap row s.cfgreg.rows : Nat) (wrap col s.cfgreg.cols : Nat) = grid s row col :=
    (cell_wrap s s.cur row col h.rowsPos h.colsPos).symm
  simp only [life, liveNeighbors, hmove, hself]

/-! ### The slots under STRAT 1 -/

theorem CfgReg.Legal.eight_dvd_W {g : CfgReg} (h : g.Legal) : 8 ∣ g.W := Nat.pow_dvd_pow 2 h.log2wLow

theorem CfgReg.s_of_strat_one {g : CfgReg} (h : g.STRAT = 1) : g.s = 4 := if_neg (by simp [h])

/-- In a legal seeded nibble engine every grid word has slot bits only (rules R31, R125). -/
theorem slotsHoldBits_gword {s : State} (hinv : s.Inv) (hcfgd : s.cfgd = true) (hseeded : s.seeded = true)
    (hstrat : s.cfgreg.STRAT = 1) (r k : Int) : SlotsHoldBits (gword s r k) := by
  obtain ⟨h, -⟩ := hinv.configured hcfgd
  intro b hbit
  rw [getLsbD_gword, Bool.and_eq_true, decide_eq_true_eq] at hbit
  obtain ⟨hb, hbit⟩ := hbit
  have hwritten := List.all_eq_true.1 hseeded _
    (List.mem_range.2 (rowMajor_lt (wrap_lt r h.rowsPos) (wrap_lt k h.wpr_pos)))
  obtain ⟨v, hv⟩ := Option.isSome_iff_exists.1 hwritten
  obtain ⟨-, -, hslots⟩ := hinv.stored hcfgd s.cur _ (Memory.mem_of_read hv)
  rw [State.gread, hv, Option.getD_some] at hbit
  exact hslots hstrat b (by have := h.W_le; omega) hbit

/-- A shift by one slot of four bits keeps the bits in their slots (rules R163 to R165). -/
theorem SlotsHoldBits.shiftScalar {w : Nat} (hw : w % 4 = 0) (hw4 : 4 ≤ w) {v below above : BitVec w}
    (hv : SlotsHoldBits v) (hbelow : SlotsHoldBits below) (habove : SlotsHoldBits above) (dx : Delta) :
    SlotsHoldBits (shiftScalar 4 dx v below above) := by
  intro b hbit
  have hb := BitVec.lt_of_getLsbD hbit
  cases dx with
  | zero => exact hv b hbit
  | minus =>
    rw [getLsbD_shiftScalar_minus _ _ _ hw4 hb] at hbit
    split at hbit
    · have := hbelow _ hbit
      omega
    · have := hv _ hbit
      omega
  | plus =>
    rw [getLsbD_shiftScalar_plus _ _ _ hw4 hb] at hbit
    split at hbit
    · have := hv _ hbit
      omega
    · have := habove _ hbit
      omega

/-- Under STRAT 1 the bits of a slot other than bit 0 are 0 in every neighbor word (rule R161). -/
theorem slotsHoldBits_nbr {s : State} (hinv : s.Inv) (hcfgd : s.cfgd = true) (hseeded : s.seeded = true)
    (hstrat : s.cfgreg.STRAT = 1) (dx dy : Delta) (r k : Int) : SlotsHoldBits (nbr s dx dy r k) := by
  obtain ⟨h, -⟩ := hinv.configured hcfgd
  have hg := slotsHoldBits_gword hinv hcfgd hseeded hstrat
  have hW := h.eight_dvd_W
  rw [nbr, shiftWord_eq_shiftScalar h, CfgReg.s_of_strat_one hstrat]
  exact (hg _ _).shiftScalar (by omega) (by have := s.cfgreg.W_pos; omega) (hg _ _) (hg _ _) dx

/-! ### One generation -/

/-- Slot j of NextWord(r, k) is the next value of the cell at row r and column k * m + j, by either counter
(rules R281, R284). -/
theorem getLsbD_nextWord_slot {s : State} (hinv : s.Inv) (hcfgd : s.cfgd = true) (hseeded : s.seeded = true) (r k : Nat)
    {j : Nat} (hj : j < s.cfgreg.m) :
    (nextWord s r k).getLsbD (s.cfgreg.s * j) = life (grid s) r ((k : Int) * s.cfgreg.m + j) := by
  obtain ⟨h, -⟩ := hinv.configured hcfgd
  have hbit := h.slot_lt_W hj
  rw [life, ← countP_neighborWords h _ _ hj, ← getLsbD_gword_slot h _ _ hj, nextWord, countPlanes]
  split
  · exact getLsbD_evalRule_csc _ _ hbit
  next hstrat =>
    have hstrat1 := h.strat.resolve_left hstrat
    have hclean : ∀ v ∈ neighborWords s r k, SlotsHoldBits v := by
      intro v hv
      obtain ⟨d, -, rfl⟩ := List.mem_map.1 hv
      exact slotsHoldBits_nbr hinv hcfgd hseeded hstrat1 d.1 d.2 r k
    have hW := h.eight_dvd_W
    exact getLsbD_evalRule_nib (by omega) (Nat.le_refl _) hclean _ hbit
      (by rw [CfgReg.s_of_strat_one hstrat1, Nat.mul_mod_right])

/-- A STEP of a legal seeded engine gives every cell its next value by Conway's rule (rule R284). -/
theorem grid_advance {s : State} (hinv : s.Inv) (hcfgd : s.cfgd = true) (hseeded : s.seeded = true) :
    grid (advance s) = life (grid s) := by
  obtain ⟨h, -⟩ := hinv.configured hcfgd
  funext row col
  have hslot : wrap col s.cfgreg.cols % s.cfgreg.m < s.cfgreg.m := Nat.mod_lt _ h.m_pos
  have hbit : (cellAddr s.cfgreg row col).2 < 512 := (h.slot_lt_W hslot).trans_le h.W_le
  have hcol : ((wrap col s.cfgreg.cols / s.cfgreg.m : Nat) : Int) * s.cfgreg.m +
      (wrap col s.cfgreg.cols % s.cfgreg.m : Nat) = (wrap col s.cfgreg.cols : Nat) := by
    exact_mod_cast Nat.div_add_mod' _ _
  rw [grid, advance_cur, cell_advance h, BitVec.getLsbD_setWidth, decide_eq_true hbit, Bool.true_and, cellAddr,
    getLsbD_nextWord_slot hinv hcfgd hseeded _ _ hslot, hcol, life_grid_wrap h]

/-- The response word of a RDBIT is the cell (rule R87). -/
theorem cellWord_eq (alive : Bool) : cellWord alive = if alive = true then 1 else 0 := by cases alive <;> rfl

/-- A RDBIT with no reserved bit and no payload of a ready engine reads its cell (rule R135). -/
theorem execRdbit_of_ready {s : State} (row col : BitVec 32) (h : s.Ready) :
    execRdbit row col 0 [] s = .next (readCell s row.toInt col.toInt) := by
  simp [execRdbit, coord, h.configured, h.notFatal]

/-- Settles O49: the current buffer after the swap holds the generation the STEP computed. -/
theorem readAfterStepSeesTheNewGeneration : Obligations.ReadAfterStepSeesTheNewGeneration := by
  intro s row col hinv hready hseeded
  have hready' : (advance s).Ready := ⟨by simpa using hready.configured, by simpa using hready.notFatal⟩
  refine ⟨_, _, execStep_of_ready hready, execRdbit_of_ready row col hready', ?_⟩
  rw [readCell_rspq, advance_rspq, cellWord_eq, ← grid_advance hinv hready.configured hseeded]
  rfl

end Sys2Proof.Machine
end

section
/-! PROOFS. The encoding of the command set: the decoder and the encoder are inverse (rules R80 to R86), an illegal opcode is
consumed whole (rule R88), a partial command waits (rules R85, R356), the responses of each command (rule R87), and the
worked examples of 30_encoding.md. -/

namespace Sys2Proof.Machine

/-! ### The fields of CFG's H0 -/

/-- A field of H0 above LEN is a field of the body H0 is built from (rule R81). -/
theorem extractLsb'_headerWord (body : BitVec 48) (p : List Word) (opc : BitVec 8) {k n : Nat} (h : 16 ≤ k) :
    (headerWord body p opc).extractLsb' k n = body.extractLsb' (k - 16) n := by
  show (body ++ BitVec.ofNat 8 p.length ++ opc : BitVec (48 + 8 + 8)).extractLsb' k n = _
  rw [BitVec.extractLsb'_append_eq_of_le (by omega), BitVec.extractLsb'_append_eq_of_le (by omega), Nat.sub_sub]

/-- The fields of rule R83 are read back off the body they build, least significant first. -/
theorem extractLsb'_cfgBody (strat : BitVec 2) (log2w log2l : BitVec 4) (pm1 : BitVec 16) (rsv : CfgReserved) :
    (cfgBody strat log2w log2l pm1 rsv).extractLsb' 0 2 = strat ∧
    (cfgBody strat log2w log2l pm1 rsv).extractLsb' 2 2 = rsv.low ∧
    (cfgBody strat log2w log2l pm1 rsv).extractLsb' 4 4 = log2w ∧
    (cfgBody strat log2w log2l pm1 rsv).extractLsb' 8 4 = log2l ∧
    (cfgBody strat log2w log2l pm1 rsv).extractLsb' 12 4 = rsv.mid ∧
    (cfgBody strat log2w log2l pm1 rsv).extractLsb' 16 16 = pm1 ∧
    (cfgBody strat log2w log2l pm1 rsv).extractLsb' 32 16 = rsv.high := by
  have hbody : cfgBody strat log2w log2l pm1 rsv =
    (rsv.high ++ pm1 ++ rsv.mid ++ log2l ++ log2w ++ rsv.low ++ strat : BitVec (16 + 16 + 4 + 4 + 4 + 2 + 2)) := rfl
  rw [hbody]
  simp (disch := decide) only [BitVec.extractLsb'_append_eq_of_le, BitVec.extractLsb'_append_eq_of_add_le,
    BitVec.extractLsb'_eq_self, Nat.reduceSub, and_self]

/-- The fields of CFG stand side by side in H0[63:16], no bit left out (rules R81, R83). -/
theorem cfgBody_fields (h0 : Word) :
    cfgBody (h0.extractLsb' 16 2) (h0.extractLsb' 20 4) (h0.extractLsb' 24 4) (h0.extractLsb' 32 16)
      ⟨h0.extractLsb' 18 2, h0.extractLsb' 28 4, h0.extractLsb' 48 16⟩ = bodyField h0 := by
  show (h0.extractLsb' 48 16 ++ h0.extractLsb' 32 16 ++ h0.extractLsb' 28 4 ++ h0.extractLsb' 24 4 ++
    h0.extractLsb' 20 4 ++ h0.extractLsb' 18 2 ++ h0.extractLsb' 16 2 : BitVec (16 + 16 + 4 + 4 + 4 + 2 + 2)) = bodyField h0
  iterate 6 rw [BitVec.extractLsb'_append_extractLsb'_eq_extractLsb' (by rfl)]
  rfl

/-! ### The opcode map -/

/-- What the opcode map hands over: for each opcode its command, and for no other (rule R86). -/
theorem decodeFields_eq_ok {h0 h1 : Word} {p : List Word} {i : Instr} :
    decodeFields h0 h1 p = .ok i ↔
      (opcField h0 = 0x01 ∧ .cfg (h0.extractLsb' 16 2) (h0.extractLsb' 20 4) (h0.extractLsb' 24 4)
        (h0.extractLsb' 32 16) (operandA h1) (operandB h1)
        ⟨h0.extractLsb' 18 2, h0.extractLsb' 28 4, h0.extractLsb' 48 16⟩ p = i) ∨
      (opcField h0 = 0x02 ∧ .fill (operandA h1) (operandB h1) (bodyField h0) p = i) ∨
      (opcField h0 = 0x03 ∧ .rdbit (operandA h1) (operandB h1) (bodyField h0) p = i) ∨
      (opcField h0 = 0x04 ∧ .step (bodyField h0) h1 p = i) ∨
      (opcField h0 = 0x05 ∧ .stat (bodyField h0) h1 p = i) := by
  unfold decodeFields
  split_ifs <;> simp_all

/-- OPC as a number (rule R81). -/
theorem opcField_eq_iff {h0 : Word} {n : BitVec 8} : opcField h0 = n ↔ h0.toNat % 256 = n.toNat := by
  rw [← BitVec.toNat_inj, opcField, BitVec.extractLsb'_toNat]
  rfl

/-- LEN is an 8-bit number (rule R81). -/
theorem lenField_le (h0 : Word) : lenField h0 ≤ 255 := Nat.le_of_lt_succ (BitVec.isLt _)

/-! ### The decoder and the encoder are inverse -/

/-- H0 and H1 of every command hold its fields where the decoder reads them (rule R83). -/
theorem exists_fields_of_encode (i : Instr) :
    ∃ h0 h1, encode i = h0 :: h1 :: i.payload ∧ decodeFields h0 h1 i.payload = .ok i := by
  cases i with
  | cfg strat log2w log2l pm1 rows cols rsv p =>
    refine ⟨_, _, rfl, decodeFields_eq_ok.2 (.inl ⟨opcField_headerWord .., ?_⟩)⟩
    simp (disch := decide) only [extractLsb'_headerWord, Nat.reduceSub, extractLsb'_cfgBody, operandA_operandWord,
      operandB_operandWord, Instr.payload]
  | fill | rdbit =>
    refine ⟨_, _, rfl, decodeFields_eq_ok.2 ?_⟩
    simp [opcField_headerWord, bodyField_headerWord, operandA_operandWord, operandB_operandWord, Instr.payload]
  | step | stat =>
    refine ⟨_, _, rfl, decodeFields_eq_ok.2 ?_⟩
    simp [opcField_headerWord, bodyField_headerWord, Instr.payload]

/-- The words of a well-formed command are framed whole, whatever follows them (rules R80, R85). -/
theorem splitCommand_encode {i : Instr} (h : i.wellFormed = true) (rest : List Word) :
    ∃ h0 h1, encode i = h0 :: h1 :: i.payload ∧ splitCommand (encode i ++ rest) = some (h0, h1, i.payload, rest) := by
  cases i with
  | cfg => exact Laws.Framed.cfg _ _ _ _ _ _ _ _ h rest
  | fill => exact Laws.Framed.fill _ _ _ _ h rest
  | rdbit => exact Laws.Framed.rdbit _ _ _ _ h rest
  | step => exact Laws.Framed.step _ _ _ h rest
  | stat => exact Laws.Framed.stat _ _ _ h rest

/-- Settles O1: the framing takes the command's own words, and each field is read where the encoder wrote it. -/
theorem decodeOfEncodeIsTheCommand : Obligations.DecodeOfEncodeIsTheCommand := by
  intro i rest hwf
  obtain ⟨h0, h1, hwords, hsplit⟩ := splitCommand_encode hwf rest
  obtain ⟨h0', h1', hwords', hfields⟩ := exists_fields_of_encode i
  obtain ⟨rfl, rfl⟩ : h0 = h0' ∧ h1 = h1' := by simpa [hwords] using hwords'
  exact decode_eq_ok.2 ⟨h0, h1, i.payload, hsplit, hfields⟩

/-- The encoder writes the words that a command was read from: H0 and H1 are the words their fields build, when LEN counts
the payload (rules R80, R81, R83). -/
theorem encode_of_decodeFields {h0 h1 : Word} {p : List Word} {i : Instr} (hlen : p.length = lenField h0)
    (h : decodeFields h0 h1 p = .ok i) : encode i = h0 :: h1 :: p ∧ i.payload = p := by
  have hheader := headerWord_fields hlen
  rcases decodeFields_eq_ok.1 h with ⟨hopc, rfl⟩ | ⟨hopc, rfl⟩ | ⟨hopc, rfl⟩ | ⟨hopc, rfl⟩ | ⟨hopc, rfl⟩ <;>
    rw [hopc] at hheader
  · exact ⟨by rw [encode, cfgBody_fields, operandWord_fields, hheader], rfl⟩
  · exact ⟨by rw [encode, operandWord_fields, hheader], rfl⟩
  · exact ⟨by rw [encode, operandWord_fields, hheader], rfl⟩
  · exact ⟨by rw [encode, hheader], rfl⟩
  · exact ⟨by rw [encode, hheader], rfl⟩

/-- Settles O2: the framing splits the words without loss, and LEN bounds the payload. -/
theorem encodeOfDecodeIsTheWords : Obligations.EncodeOfDecodeIsTheWords := by
  intro ws rest i hdecode
  obtain ⟨h0, h1, p, hsplit, hfields⟩ := decode_eq_ok.1 hdecode
  obtain ⟨rfl, hlen⟩ := splitCommand_eq_some hsplit
  obtain ⟨hwords, hpayload⟩ := encode_of_decodeFields hlen hfields
  exact ⟨by rw [hwords], by simpa [Instr.wellFormed, hpayload, hlen] using lenField_le h0⟩

/-! ### Illegal opcodes and partial commands -/

/-- Settles O6: the framing does not look at OPC, and an illegal opcode only raises its error. -/
theorem illegalOpcodeIsConsumedAndFatal : Obligations.IllegalOpcodeIsConsumedAndFatal := by
  intro s w h0 h1 ws p ms hhost hwords hlen hopc
  have hsplit : splitCommand (s.dec ++ (w :: ws) ++ (leadingWords ms).1) = some (h0, h1, p, (leadingWords ms).1) := by
    rw [hwords]
    exact splitCommand_append _ hlen
  rw [step_of_split hhost hsplit, sendWords_leadingWords]
  simp only [runCommand, decodeFields_of_illegal h1 p hopc]
  rfl

/-- Settles O7: the words wait in DEC; no word follows them, so the later moves stay as they are. -/
theorem partialCommandOnlyWaits : Obligations.PartialCommandOnlyWaits := by
  refine ⟨fun s w ws ms hhost hlead hpartial => ?_, fun s => step_of_host_nil⟩
  have hrest : (leadingWords ms).2 = ms := by simpa [hlead] using sendWords_leadingWords ms
  simpa [hlead, hrest] using step_of_partial hhost (by simpa [hlead] using hpartial)

/-! ### Responses -/

/-- The one response of a RDBIT: the error word when the engine is fatal after it, otherwise the cell (rule R87). -/
theorem rspq_of_execRdbit {row col : BitVec 32} {rsv : BitVec 48} {p : List Word} {s t : State}
    (h : execRdbit row col rsv p s = .next t) :
    t.rspq = s.rspq ++ [if t.fatal = true then errorWord else cellWord (grid s row.toInt col.toInt)] := by
  rcases execRdbit_cases h with ⟨hfatal, rfl⟩ | ⟨-, c, rfl⟩ | ⟨hfatal, -, rfl⟩
  · simp [hfatal]
  · simp
  · simp [hfatal, grid, coord]

/-- The one response of a STAT: STATUS as the STAT leaves it (rules R87, R320). -/
theorem rspq_of_execStat {rsv : BitVec 48} {h1 : Word} {p : List Word} {s t : State}
    (h : execStat rsv h1 p s = .next t) : t.rspq = s.rspq ++ [statusWord t] := by
  rcases execStat_cases h with rfl | ⟨-, c, rfl⟩
  · rfl
  · rw [respond_rspq, raiseFatal_rspq]; rfl

/-- A command that reads nothing responds nothing, whatever its opcode (rule R87). -/
theorem rspq_of_runCommand {h0 h1 : Word} {p : List Word} {s t : State} (hrdbit : opcField h0 ≠ 0x03)
    (hstat : opcField h0 ≠ 0x05) (h : runCommand h0 h1 p s = .next t) : t.rspq = s.rspq := by
  rcases runCommand_cases h with ⟨i, hfields, hexec⟩ | ⟨-, rfl⟩
  · rcases decodeFields_eq_ok.1 hfields with ⟨-, rfl⟩ | ⟨-, rfl⟩ | ⟨hopc, -⟩ | ⟨-, rfl⟩ | ⟨hopc, -⟩
    · rcases execCfg_cases hexec with ⟨-, rfl⟩ | ⟨-, c, rfl⟩ | ⟨-, -, -, -, -, rfl⟩ <;> simp
    · rcases execFill_cases hexec with ⟨-, rfl⟩ | ⟨-, c, rfl⟩ | ⟨-, -, -, rfl⟩ <;> simp
    · exact absurd hopc hrdbit
    · rcases execStep_cases hexec with ⟨-, rfl⟩ | ⟨-, c, rfl⟩ | ⟨-, -, rfl⟩ <;> simp
    · exact absurd hopc hstat
  · exact raiseFatal_rspq _ s

/-- Settles O28, opcode by opcode. -/
theorem responsesAreOneWordPerReadingCommand : Obligations.ResponsesAreOneWordPerReadingCommand := by
  intro s t h0 h1 p hrun
  by_cases h3 : h0.toNat % 256 = 3
  · have hfields : decodeFields h0 h1 p = .ok (.rdbit (operandA h1) (operandB h1) (bodyField h0) p) := by
      simp [decodeFields_eq_ok, opcField_eq_iff, h3]
    rw [runCommand_of_decodeFields s hfields] at hrun
    rw [if_pos h3, rspq_of_execRdbit hrun, cellWord_eq]
    rfl
  by_cases h5 : h0.toNat % 256 = 5
  · have hfields : decodeFields h0 h1 p = .ok (.stat (bodyField h0) h1 p) := by
      simp [decodeFields_eq_ok, opcField_eq_iff, h5]
    rw [runCommand_of_decodeFields s hfields] at hrun
    rw [if_neg h3, if_pos h5, rspq_of_execStat hrun]
  · rw [if_neg h3, if_neg h5]
    exact rspq_of_runCommand (mt opcField_eq_iff.1 h3) (mt opcField_eq_iff.1 h5) hrun

/-- Reading a written cell records nothing, so its response is all it does (rules R87, R350). -/
theorem readCell_of_written {s : State} {row col : Int} (h : s.written s.cur (cellAddr s.cfgreg row col).1 = true) :
    readCell s row col = respond (cellWord (grid s row col)) s := by
  simp [readCell, recordUninit, h, grid]

/-- Settles O27: the RDBIT is executed, and its word is written. -/
theorem rdbitRespondsTheCell : Obligations.RdbitRespondsTheCell := by
  intro s row col hready hwritten
  have hexec : exec (.rdbit row col 0 []) s = .next (readCell s row.toInt col.toInt) := execRdbit_of_ready row col hready
  rw [hexec, readCell_of_written hwritten, cellWord_eq, respond]

/-! ### The examples of 30_encoding.md -/

/-- Settles O3: each printed word is decoded. -/
theorem specWordsDecodeAsTheSpecSays : Obligations.SpecWordsDecodeAsTheSpecSays := by
  refine ⟨?_, ?_, ?_, ?_, ?_, ?_, ?_⟩ <;> decide

/-- Settles O52: each line is assembled. -/
theorem exampleLinesAssembleToTheSpecsWords : Obligations.ExampleLinesAssembleToTheSpecsWords := by
  refine ⟨?_, ?_, ?_⟩ <;> decide

end Sys2Proof.Machine
end

section
/-! PROOFS. Construction happens once (rules R23, R121), and the frame of CFG (rules R120, R345). -/

namespace Sys2Proof.Machine

/-! ### Construction is kept -/

/-- A second CFG fails with ALREADY_CONFIGURED (rule R121). -/
theorem execCfg_of_configured {s : State} (strat : BitVec 2) (log2w log2l : BitVec 4) (pm1 : BitVec 16)
    (rows cols : BitVec 32) (p : List Word) (hcfgd : s.cfgd = true) (hfatal : s.fatal = false) :
    execCfg strat log2w log2l pm1 rows cols ⟨0, 0, 0⟩ p s = .next (raiseFatal .alreadyConfigured s) := by
  simp [execCfg, failCommand, hcfgd, hfatal]

/-- No command changes CFGD or CFGREG of a constructed engine: only a CFG could, and it fails (rules R23, R121). -/
theorem exec_keeps_construction {i : Instr} {s t : State} (h : exec i s = .next t) (hcfgd : s.cfgd = true) :
    t.cfgd = true ∧ t.cfgreg = s.cfgreg := by
  cases i with
  | cfg =>
    rcases execCfg_cases h with ⟨-, rfl⟩ | ⟨-, c, rfl⟩ | ⟨-, hnot, -, -, -, -⟩
    · exact ⟨hcfgd, rfl⟩
    · simp [hcfgd]
    · simp [hcfgd] at hnot
  | fill => rcases execFill_cases h with ⟨-, rfl⟩ | ⟨-, c, rfl⟩ | ⟨-, -, -, rfl⟩ <;> simp [hcfgd]
  | rdbit => rcases execRdbit_cases h with ⟨-, rfl⟩ | ⟨-, c, rfl⟩ | ⟨-, -, rfl⟩ <;> simp [hcfgd]
  | step => rcases execStep_cases h with ⟨-, rfl⟩ | ⟨-, c, rfl⟩ | ⟨-, -, rfl⟩ <;> simp [hcfgd]
  | stat => rcases execStat_cases h with rfl | ⟨-, c, rfl⟩ <;> simp [hcfgd]

/-- Nor does a command taken off the channel, an illegal one included. -/
theorem runCommand_keeps_construction {h0 h1 : Word} {payload : List Word} {s t : State}
    (h : runCommand h0 h1 payload s = .next t) (hcfgd : s.cfgd = true) : t.cfgd = true ∧ t.cfgreg = s.cfgreg := by
  rcases runCommand_cases h with ⟨i, -, hexec⟩ | ⟨-, rfl⟩
  · exact exec_keeps_construction hexec hcfgd
  · simp [hcfgd]

/-- Settles O21: the CFGD check answers the second CFG, and of all a step can do only the reset undoes construction. -/
theorem constructionIsOncePerReset : Obligations.ConstructionIsOncePerReset := by
  refine ⟨fun s strat log2w log2l pm1 rows cols p hcfgd hfatal => ?_, fun s t hcfgd h => ?_⟩
  · rw [exec, execCfg_of_configured _ _ _ _ _ _ _ hcfgd hfatal]
    simp [raiseFatal, hfatal, Cause.code]
  · rcases step_cases h with ⟨ms, hreset, -⟩ | ⟨ms, -, rfl⟩ | ⟨-, rfl⟩ | ⟨h0, h1, payload, rest, -, hrun⟩
    · exact .inr ⟨ms, hreset⟩
    · exact .inl ⟨hcfgd, rfl⟩
    · exact .inl ⟨hcfgd, rfl⟩
    · have hkept := runCommand_keeps_construction hrun hcfgd
      exact .inl hkept

/-! ### The frame of CFG -/

/-- An error raised changes FATAL and CAUSE and no word a port can read (rules R12, R345). -/
@[simp] theorem gread_raiseFatal (c : Cause) (s : State) (b : Bool) (i : Nat) :
    (raiseFatal c s).gread b i = s.gread b i :=
  gread_congr (by rw [buf_raiseFatal]) (raiseFatal_epoch c s)

/-- Settles O22: a gated CFG changes nothing, a failing one FATAL and CAUSE, a legal one constructs an engine that was not
constructed. -/
theorem cfgFrame : Obligations.CfgFrame := by
  intro s t strat log2w log2l pm1 rows cols rsv p h
  rcases execCfg_cases h with ⟨-, rfl⟩ | ⟨hfatal, c, rfl⟩ | ⟨-, hcfgd, -, -, -, rfl⟩
  · simp
  · simp [hfatal]
  · simp [hcfgd, Memory.read]

end Sys2Proof.Machine
end

section
/-! PROOFS. The ShiftEngine: its contract on the slots (rule R161), the vector form (rule R171), and rows of one word
(rule R167). -/

namespace Sys2Proof.Machine

/-! ### The contract -/

/-- Slots of four bits are those of the nibble strategy (rule R6). -/
theorem CfgReg.Legal.strat_of_s_eq_four {g : CfgReg} (h : g.Legal) (hs : g.s = 4) : g.STRAT = 1 := by
  refine h.strat.resolve_left fun hstrat => ?_
  rcases g.s_cases with ⟨-, hs'⟩ | ⟨hstrat', -⟩
  · omega
  · exact hstrat' hstrat

/-- Settles O34: the shift moves the words slot by slot, and no bit of a seeded nibble word stands outside bit 0 of its
slot. -/
theorem neighborWordsHoldTheNeighborCells : Obligations.NeighborWordsHoldTheNeighborCells := by
  intro s dx dy r k j hinv hcfgd _ _ hj
  obtain ⟨hlegal, -⟩ := hinv.configured hcfgd
  refine ⟨getLsbD_nbr_slot hlegal dx dy r k hj, fun hseeded hs b hb1 hb4 => ?_⟩
  have hclean := slotsHoldBits_nbr hinv hcfgd hseeded (hlegal.strat_of_s_eq_four hs) dx dy r k
  refine Bool.eq_false_iff.2 fun hbit => ?_
  have hslot := hclean _ hbit
  omega

/-! ### The vector form -/

/-- Settles O35: a slot fits a lane, so each lane is the word's shift between its neighbor lanes. -/
theorem vectorShiftEqualsScalarShift : Obligations.VectorShiftEqualsScalarShift :=
  ⟨fun _ _ _ dx v below above hdvd hl hs =>
    shiftVector_eq_shiftScalar dx v below above hdvd (by omega) (by omega),
   fun _ dx v below above hlegal => shiftWord_eq_shiftScalar hlegal dx v below above⟩

/-! ### Rows of one word -/

/-- Beside itself a word shifted to the higher index rotates (rules R164, R167). -/
theorem shiftScalar_minus_self {w s : Nat} (v : BitVec w) (hs : s < w) :
    shiftScalar s .minus v v v = v.rotateLeft s := by
  rw [shiftScalar, BitVec.rotateLeft_def, Nat.mod_eq_of_lt hs]

/-- Beside itself a word shifted to the lower index rotates; the slot mask loses nothing, since the bits above it leave
the word (rules R165, R167). -/
theorem shiftScalar_plus_self {w s : Nat} (v : BitVec w) (hs : s < w) :
    shiftScalar s .plus v v v = v.rotateRight s := by
  apply BitVec.eq_of_getLsbD_eq
  intro i hi
  rw [getLsbD_shiftScalar_plus v v v hs.le hi, BitVec.getLsbD_rotateRight_of_lt hs]
  by_cases hin : i + s < w
  · rw [if_pos hin, decide_eq_true (show i < w - s by omega), cond_true, Nat.add_comm]
  · rw [if_neg hin, decide_eq_false (show ¬ i < w - s by omega), cond_false, decide_eq_true hi, Bool.true_and,
      show i - (w - s) = i + s - w by omega]

/-- A slot is narrower than a word (rules R3, R6). -/
theorem CfgReg.Legal.s_lt_W {g : CfgReg} (h : g.Legal) : g.s < g.W := by
  have hW : 8 ≤ g.W := Nat.le_of_dvd g.W_pos h.eight_dvd_W
  rcases g.s_cases with ⟨-, hs⟩ | ⟨-, hs⟩ <;> omega

/-- A row of one word has that word at every word column (rules R125, R167). -/
theorem gword_eq_of_wpr_eq_one {s : State} (hwpr : s.cfgreg.wpr = 1) (r k k' : Int) : gword s r k = gword s r k' := by
  have hcol (x : Int) : wrap x s.cfgreg.wpr = 0 := Nat.lt_one_iff.1 (hwpr ▸ wrap_lt x (by omega))
  rw [gword, gword, hcol, hcol]

/-- In a row of one word the shift finds the word itself on both sides (rule R167). -/
theorem nbr_eq_shiftScalar_self {s : State} (hlegal : s.cfgreg.Legal) (hwpr : s.cfgreg.wpr = 1) (dx dy : Delta)
    (r k : Int) :
    nbr s dx dy r k = shiftScalar s.cfgreg.s dx (gword s (r + dy.toInt) k) (gword s (r + dy.toInt) k)
      (gword s (r + dy.toInt) k) := by
  rw [nbr, shiftWord_eq_shiftScalar hlegal, gword_eq_of_wpr_eq_one hwpr _ (k - 1) k,
    gword_eq_of_wpr_eq_one hwpr _ (k + 1) k]

/-- Settles O36: the word beside a row's only word is that word, and a word shifted beside itself rotates. -/
theorem oneWordRowsRotate : Obligations.OneWordRowsRotate := by
  refine ⟨fun w s v hs => ⟨shiftScalar_minus_self v hs, shiftScalar_plus_self v hs⟩, ?_⟩
  intro s dy r k hlegal hwpr
  rw [nbr_eq_shiftScalar_self hlegal hwpr, nbr_eq_shiftScalar_self hlegal hwpr]
  exact ⟨shiftScalar_minus_self _ hlegal.s_lt_W, shiftScalar_plus_self _ hlegal.s_lt_W⟩

end Sys2Proof.Machine
end

section
/-! PROOFS. The carry-save planes are the count's low digits and its comparison with 4, so they depend on the counts only
(rules R204, R205). -/

namespace Sys2Proof.Machine

/-- The three digits of a count of at most eight read back as the count, but for 8, which reads 4 (rule R204). -/
theorem planesValue_of_count_le_eight : ∀ n ≤ 8,
    4 * (decide (4 ≤ n)).toNat + 2 * (decide (n / 2 % 2 = 1)).toNat + (decide (n % 2 = 1)).toNat =
      if n = 8 then 4 else n := by
  decide

/-- The two half adders of an iteration add one bit to a two-bit digit modulo 4 (rule R202). -/
theorem halfAdders_add : ∀ b1 b2 v : Bool,
    2 * (b2 ^^ (b1 && v)).toNat + (b1 ^^ v).toNat = (2 * b2.toNat + b1.toNat + v.toNat) % 4 := by
  decide

/-- The promoted bit of an iteration is the carry out of a two-bit digit: a 1 added to 3 (rule R202). -/
theorem promote_iff : ∀ b1 b2 v : Bool,
    (b2 && (b1 && v)) = true ↔ v = true ∧ 2 * b2.toNat + b1.toNat = 3 := by
  decide

/-- Settles O37: every prefix of the fold holds its count, and an iteration is two half adders with a sticky carry out. -/
theorem carrySavePlanesCountNeighbors : Obligations.CarrySavePlanesCountNeighbors := by
  refine ⟨fun w ns j hlen _ => ?_, fun w p v j _ => ?_⟩
  · obtain ⟨h1, h2, h4⟩ := getLsbD_csc ns j
    have hcount : ns.countP (·.getLsbD j) ≤ 8 := hlen ▸ List.countP_le_length
    refine ⟨h1, h2, h4, ?_⟩
    rw [h1, h2, h4]
    exact planesValue_of_count_le_eight _ hcount
  · obtain ⟨h1, h2, h4⟩ := getLsbD_foldNeighbor p v j
    dsimp only
    rw [h1, h2, h4, Bool.or_eq_true, promote_iff]
    exact ⟨halfAdders_add _ _ _, Iff.rfl⟩

/-- Planes are equal when their bits are. -/
theorem Planes.eq_of_getLsbD_eq {w : Nat} {p q : Planes w}
    (h : ∀ j < w, p.b1.getLsbD j = q.b1.getLsbD j ∧ p.b2.getLsbD j = q.b2.getLsbD j ∧
      p.b4.getLsbD j = q.b4.getLsbD j) : p = q := by
  simp only [forall_and] at h
  obtain ⟨h1, h2, h4⟩ := h
  cases p
  cases q
  congr
  · exact BitVec.eq_of_getLsbD_eq h1
  · exact BitVec.eq_of_getLsbD_eq h2
  · exact BitVec.eq_of_getLsbD_eq h4

/-- Equal counts at every bit give equal carry-save planes (rule R205). -/
theorem csc_eq_of_countP_eq {w : Nat} {ns ns' : List (BitVec w)}
    (hcount : ∀ j < w, ns.countP (·.getLsbD j) = ns'.countP (·.getLsbD j)) : csc ns = csc ns' := by
  apply Planes.eq_of_getLsbD_eq
  intro j hj
  obtain ⟨h1, h2, h4⟩ := getLsbD_csc ns' j
  rw [h1, h2, h4, ← hcount j hj]
  exact getLsbD_csc ns j

/-- Settles O38: the planes are functions of the counts, and a reordering keeps every count. -/
theorem carrySaveOrderDoesNotMatter : Obligations.CarrySaveOrderDoesNotMatter := fun _ _ _ =>
  ⟨csc_eq_of_countP_eq, fun hperm => csc_eq_of_countP_eq fun _ _ => hperm.countP_eq _⟩

end Sys2Proof.Machine
end

section
/-! PROOFS. The RuleEvaluator gives Conway's rule from both kinds of planes (rules R233, R234, R255). -/

namespace Sys2Proof.Machine

/-- Settles O40: each kind of planes holds the digits of the count from which the rule output reads 2 and 3. -/
theorem ruleEvaluatorIsConwaysRule : Obligations.RuleEvaluatorIsConwaysRule := fun _ ns alive _ hlen hi =>
  ⟨getLsbD_evalRule_csc ns alive hi, fun hw hslot hns => getLsbD_evalRule_nib hw hlen.le hns alive hi hslot⟩

end Sys2Proof.Machine
end

section
/-! PROOFS. The nibble planes of eight neighbor words, against the count and against the carry-save planes (rules R253,
R254). -/

namespace Sys2Proof.Machine

/-- Between the slots' bits 0 the nibble planes are 0, whatever the neighbor words (rule R253). -/
theorem getLsbD_nib_of_not_slot {w : Nat} (ns : List (BitVec w)) {i : Nat} (hslot : i % 4 ≠ 0) :
    (nib ns).b1.getLsbD i = false ∧ (nib ns).b2.getLsbD i = false ∧ (nib ns).b4.getLsbD i = false := by
  obtain ⟨h1, h2, h4⟩ := getLsbD_nib ns i
  simp [h1, h2, h4, hslot]

/-- Of the counts up to eight, only on 8 does the digit of weight 4 differ from the comparison with 4 (rule R254). -/
theorem fourDigit_eq_fourLe_iff {n : Nat} (hn : n ≤ 8) : decide (n / 4 % 2 = 1) = decide (4 ≤ n) ↔ n ≠ 8 := by
  rw [decide_eq_decide]
  omega

/-- Settles O39: both counters hold the two low digits of the count; the third plane is its next digit under STRAT 1 and
its comparison with 4 under STRAT 0. -/
theorem nibblePlanesCountNeighbors : Obligations.NibblePlanesCountNeighbors := by
  intro w ns i hlen hw hi hns
  dsimp only
  split
  next hslot =>
    have hcount : ns.countP (·.getLsbD i) ≤ 8 := hlen ▸ List.countP_le_length
    obtain ⟨n1, n2, n4⟩ := getLsbD_nib_slot hw (by omega) hns hi hslot
    obtain ⟨c1, c2, c4⟩ := getLsbD_csc ns i
    refine ⟨n1, n2, n4, n1.trans c1.symm, n2.trans c2.symm, ?_⟩
    rw [n4, c4]
    exact fourDigit_eq_fourLe_iff hcount
  next hslot => exact getLsbD_nib_of_not_slot ns hslot

end Sys2Proof.Machine
end

section
/-! PROOFS. Consecutive generations (rules R284, R286), and that the two strategies show the same cells (rule R257). -/

namespace Sys2Proof.Machine

/-! ### Consecutive generations -/

/-- A generation leaves the engine ready (rule R280). -/
protected theorem State.Ready.advance {s : State} (h : s.Ready) : (advance s).Ready :=
  ⟨by simpa using h.configured, by simpa using h.notFatal⟩

/-- A generation writes every word of the grid, so the engine is seeded after it (rules R30, R283). -/
theorem seeded_advance {s : State} (h : s.cfgreg.Legal) : (advance s).seeded = true := by
  simp only [State.seeded, List.all_eq_true, List.mem_range, advance_cfgreg]
  intro i hi
  have hr : i / s.cfgreg.wpr < s.cfgreg.rows := Nat.div_lt_of_lt_mul (by rwa [Nat.mul_comm])
  have hread := read_nextBuffer h.workersLow hr (Nat.mod_lt i h.wpr_pos)
  rw [Nat.div_add_mod'] at hread
  simp [State.written, buf_advance, hread]

/-- Consecutive STEPs of a ready engine complete, each one generation (rules R280, R286). -/
theorem generations_of_ready {s : State} (k : Nat) (hready : s.Ready) : generations k s = .next (advance^[k] s) := by
  induction k generalizing s with
  | zero => rfl
  | succ k ih => simp only [generations, exec, execStep_of_ready hready, ih hready.advance, Function.iterate_succ_apply]

theorem ready_iterate_advance {s : State} (k : Nat) (hready : s.Ready) : (advance^[k] s).Ready :=
  Function.Iterate.rec State.Ready hready (fun _ h => h.advance) k

/-- Generation K shows Conway's rule applied K times (rules R284, R286). -/
theorem grid_iterate_advance {s : State} (k : Nat) (hinv : s.Inv) (hcfgd : s.cfgd = true) (hseeded : s.seeded = true) :
    grid (advance^[k] s) = lifeTimes k (grid s) := by
  induction k generalizing s with
  | zero => rfl
  | succ k ih =>
    obtain ⟨hlegal, -⟩ := hinv.configured hcfgd
    rw [Function.iterate_succ_apply, ih (hinv.advance hcfgd) (by simpa using hcfgd) (seeded_advance hlegal),
      grid_advance hinv hcfgd hseeded, lifeTimes]

/-! ### The two strategies -/

/-- Two ready engines of one grid and one word width, of either strategy, take the same FILL to the same cells, where
they agreed or the FILL writes (rules R130, R131, R257). -/
theorem grid_eq_of_fill {s s' t t' : State} {row chunk : BitVec 32} {p : List Word} (hinv : s.Inv) (hinv' : s'.Inv)
    (hready : s.Ready) (hready' : s'.Ready) (hR : s.cfgreg.R = s'.cfgreg.R) (hC : s.cfgreg.C = s'.cfgreg.C)
    (hW : s.cfgreg.LOG2W = s'.cfgreg.LOG2W) (hlen : p.length = max 1 (s.cfgreg.W / 64))
    (hp : s.cfgreg.W < 64 → (p.headD 0).toNat < 2 ^ s.cfgreg.W) (h : exec (.fill row chunk 0 p) s = .next t)
    (h' : exec (.fill row chunk 0 p) s' = .next t') {r c : Int}
    (hrc : (r % s.cfgreg.rows = row.toInt % s.cfgreg.rows ∧
        c % s.cfgreg.cols / s.cfgreg.W = chunk.toInt % ((s.cfgreg.cols / s.cfgreg.W : Nat) : Int)) ∨
      grid s r c = grid s' r c) : grid t r c = grid t' r c := by
  have hrows : s'.cfgreg.rows = s.cfgreg.rows := congrArg BitVec.toNat hR.symm
  have hcols : s'.cfgreg.cols = s.cfgreg.cols := congrArg BitVec.toNat hC.symm
  have hwidth : s'.cfgreg.W = s.cfgreg.W := congrArg (2 ^ BitVec.toNat ·) hW.symm
  obtain ⟨u, hu, -, -, -, -, -, hcells⟩ := fillSetsTheCellsOfItsChunk s row chunk p hinv hready hlen hp
  obtain ⟨u', hu', -, -, -, -, -, hcells'⟩ := fillSetsTheCellsOfItsChunk s' row chunk p hinv' hready'
    (hwidth ▸ hlen) (hwidth ▸ hp)
  obtain rfl : u = t := Host.Outcome.next.inj (hu.symm.trans h)
  obtain rfl : u' = t' := Host.Outcome.next.inj (hu'.symm.trans h')
  rw [hcells, hcells', hrows, hcols, hwidth]
  split
  next => rfl
  next hout => exact hrc.resolve_left hout

/-- Two ready engines that show the same cells respond to RDBIT alike (rules R87, R257). -/
theorem rdbit_eq_of_grid_eq {t t' : State} (hready : t.Ready) (hready' : t'.Ready) (hgrid : grid t = grid t')
    (row col : BitVec 32) :
    ∃ u u' v, exec (.rdbit row col 0 []) t = .next u ∧ exec (.rdbit row col 0 []) t' = .next u' ∧
      u.rspq = t.rspq ++ [v] ∧ u'.rspq = t'.rspq ++ [v] := by
  refine ⟨_, _, _, execRdbit_of_ready row col hready, execRdbit_of_ready row col hready', readCell_rspq .., ?_⟩
  rw [readCell_rspq]
  exact congrArg (fun g => t'.rspq ++ [cellWord (g row.toInt col.toInt)]) hgrid.symm

/-- Settles O48: under either strategy a FILL and a generation act on the cells alone. -/
theorem strategiesAgreeAfterAnyGenerations : Obligations.StrategiesAgreeAfterAnyGenerations := by
  refine ⟨fun s s' t t' row chunk p hinv hinv' hready hready' _ _ hR hC hW hlen hp h h' r c hrc =>
      grid_eq_of_fill hinv hinv' hready hready' hR hC hW hlen hp h h' hrc,
    fun k s s' hinv hinv' hready hready' hseeded hseeded' _ _ _ _ hgrid => ?_⟩
  have hcells : grid (advance^[k] s) = grid (advance^[k] s') := by
    rw [grid_iterate_advance k hinv hready.configured hseeded,
      grid_iterate_advance k hinv' hready'.configured hseeded', hgrid]
  exact ⟨_, _, generations_of_ready k hready, generations_of_ready k hready', hcells,
    rdbit_eq_of_grid_eq (ready_iterate_advance k hready) (ready_iterate_advance k hready') hcells⟩

end Sys2Proof.Machine
end

section
/-! PROOFS. The generation step (rules R284, R286, R291, R322), and that every step answers a state (rules R285, R392). -/

namespace Sys2Proof.Machine

/-! ### Every step answers a state -/

/-- The command channel answers whether or not a whole command is there (rules R85, R392). -/
theorem receive_total (s : State) : ∃ t, receive s = .next t := by
  cases hsplit : splitCommand (s.dec ++ (leadingWords s.host).1) with
  | none => exact ⟨_, receive_of_partial rfl hsplit⟩
  | some c =>
    obtain ⟨h0, h1, payload, rest⟩ := c
    obtain ⟨t, hrun, -, -⟩ := runCommand_answers h0 h1 payload
      { s with dec := [], host := sendWords rest ++ (leadingWords s.host).2 }
    exact ⟨t, by simp only [receive, hsplit, hrun]⟩

/-- Settles O8: the reset input and a take answer at once, and otherwise the command channel does. -/
theorem everyStepAnswersANextState : Obligations.EveryStepAnswersANextState := by
  intro s
  unfold step nextTransition
  split
  next ms _ => exact ⟨resetTransition { s with host := ms }, rfl⟩
  next ms _ => exact ⟨takeResponse { s with host := ms }, rfl⟩
  next => exact receive_total s

/-! ### One generation and many -/

/-- Settles O41: the STEP is one generation, which takes every cell to its next value. -/
theorem stepComputesConwaysRule : Obligations.StepComputesConwaysRule := fun s hinv hready hseeded =>
  ⟨advance s, execStep_of_ready hready, grid_advance hinv hready.configured hseeded⟩

/-- Settles O45: the first n workers have the first floor(n * R / P) rows, and for n = P these are all. -/
theorem workerRangesPartitionTheRows : Obligations.WorkerRangesPartitionTheRows := fun _ _ hp => flatMap_workerRows hp

/-- Each generation swaps the roles, so the parity of their number stands in CUR (rules R283, R322). -/
theorem cur_iterate_advance (k : Nat) (s : State) : (advance^[k] s).cur = (s.cur ^^ decide (k % 2 = 1)) := by
  induction k with
  | zero => simp
  | succ k ih =>
    have hparity : decide ((k + 1) % 2 = 1) = !decide (k % 2 = 1) := by
      rw [← decide_not, decide_eq_decide]
      omega
    rw [Function.iterate_succ_apply', advance_cur, ih, hparity, Bool.xor_not]

/-- Settles O47: the K STEPs are K generations. -/
theorem consecutiveStepsIterateConwaysRule : Obligations.ConsecutiveStepsIterateConwaysRule :=
  fun k s hinv hready hseeded => ⟨advance^[k] s, generations_of_ready k hready,
    grid_iterate_advance k hinv hready.configured hseeded, cur_iterate_advance k s⟩

end Sys2Proof.Machine
end

section
/-! PROOFS. The status command STAT (rules R320, R321). -/

namespace Sys2Proof.Machine

variable {rsv : BitVec 48} {h1 : Word} {p : List Word} {s : State}

/-- A STAT raises nothing in a fatal engine, and nothing where it is well formed (rules R320, R345). -/
theorem checkStat_eq_self (h : s.fatal = true ∨ (rsv = 0 ∧ h1 = 0 ∧ p = [])) : checkStat rsv h1 p s = s := by
  obtain hfatal | ⟨rfl, rfl, rfl⟩ := h
  · exact if_pos hfatal
  · simp [checkStat]

/-- A malformed STAT leaves a fatal engine behind (rule R320). -/
theorem fatal_checkStat_of_malformed (h : ¬ (rsv = 0 ∧ h1 = 0 ∧ p = [])) : (checkStat rsv h1 p s).fatal = true := by
  unfold checkStat
  split_ifs with hfatal hreserved hlen
  · exact hfatal
  · exact raiseFatal_fatal ..
  · exact raiseFatal_fatal ..
  · simp_all

/-- The checks of a STAT respond nothing; its one response is STATUS (rule R320). -/
@[simp] theorem checkStat_rspq (rsv : BitVec 48) (h1 : Word) (p : List Word) (s : State) :
    (checkStat rsv h1 p s).rspq = s.rspq := by
  unfold checkStat
  split_ifs <;> simp

/-- A STAT changes FATAL, CAUSE and RSPQ only (rules R57, R345). -/
theorem respond_checkStat_frame (rsv : BitVec 48) (h1 : Word) (p : List Word) (s : State) (w : Word) :
    respond w (checkStat rsv h1 p s) =
      { s with
        fatal := (checkStat rsv h1 p s).fatal
        cause := (checkStat rsv h1 p s).cause
        rspq := (checkStat rsv h1 p s).rspq ++ [w] } := by
  unfold checkStat raiseFatal
  split_ifs <;> rfl

/-- The state a STAT leaves passes the checks of an equal STAT: the engine is fatal, or the STAT well formed. -/
theorem checkStat_respond_checkStat (w : Word) :
    checkStat rsv h1 p (respond w (checkStat rsv h1 p s)) = respond w (checkStat rsv h1 p s) := by
  by_cases hwf : rsv = 0 ∧ h1 = 0 ∧ p = []
  · exact checkStat_eq_self (.inr hwf)
  · exact checkStat_eq_self (.inl (fatal_checkStat_of_malformed hwf))

/-- STATUS shows no response (rule R24). -/
theorem statusWord_respond (w : Word) (s : State) : statusWord (respond w s) = statusWord s := rfl

/-- The second of two equal STATs responds the word of the first and does nothing else (rule R321). -/
theorem execStat_respond_checkStat (w : Word) :
    execStat rsv h1 p (respond w (checkStat rsv h1 p s)) =
      .next (respond (statusWord (checkStat rsv h1 p s)) (respond w (checkStat rsv h1 p s))) := by
  rw [execStat, checkStat_respond_checkStat, statusWord_respond]

/-- Settles O33: the first STAT responds STATUS after its checks, and the second one's checks find nothing to raise. -/
theorem twoStatsRespondTheSame : Obligations.TwoStatsRespondTheSame := fun s rsv h1 p =>
  ⟨_, _, statusWord (checkStat rsv h1 p s), rfl, execStat_respond_checkStat _, by simp, by simp,
    respond_checkStat_frame rsv h1 p s _, fun hquiet => by simp [checkStat_eq_self hquiet], rfl⟩

end Sys2Proof.Machine
end

section
/-! PROOFS. Errors and the fatal state (rules R341 to R350): each command is a gate, its checks and its effect; the errors
read off its words are those of its checks, in the order of rule R346; a command in error or behind the gate does no more
than respond; and only the reset leaves the fatal state. -/

namespace Sys2Proof.Machine

/-! ### The gate, the checks and the effect of a command -/

/-- What a command that is not executed still does: a RDBIT responds the error word and a STAT responds STATUS (rules R87,
R344). -/
def respondUnexecuted : Instr → State → State
  | .rdbit _ _ _ _, s => respond errorWord s
  | .stat _ _ _, s => respond (statusWord s) s
  | .cfg _ _ _ _ _ _ _ _, s => s
  | .fill _ _ _ _, s => s
  | .step _ _ _, s => s

/-- The error a command raises once past the gate: that of the first check of its meaning to fail (rules R120, R130, R135,
R280, R320). -/
def commandError (s : State) : Instr → Option Cause
  | .cfg strat log2w log2l _ rows cols rsv p =>
    if rsv.low ≠ 0 ∨ rsv.mid ≠ 0 ∨ rsv.high ≠ 0 then some .reservedField
    else if s.cfgd then some .alreadyConfigured
    else if p.length ≠ 0 then some .badLength
    else if paramsLegal strat log2w log2l rows cols = false then some .badParam
    else if cols.toNat % 2 ^ log2w.toNat ≠ 0 then some .dimNotMultiple
    else if storageBits strat rows cols > s.capacity then some .allocFail
    else none
  | .fill _ _ rsv p =>
    if rsv ≠ 0 then some .reservedField
    else if s.cfgd = false then some .notConfigured
    else if p.length ≠ s.cfgreg.NP then some .badLength
    else if s.cfgreg.W < 64 ∧ payloadOverflows s.cfgreg.W p = true then some .reservedField
    else none
  | .rdbit _ _ rsv p =>
    if rsv ≠ 0 then some .reservedField
    else if s.cfgd = false then some .notConfigured
    else if p.length ≠ 0 then some .badLength
    else none
  | .step rsv h1 p =>
    if rsv ≠ 0 ∨ h1 ≠ 0 then some .reservedField
    else if s.cfgd = false then some .notConfigured
    else if p.length ≠ 0 then some .badLength
    else none
  | .stat rsv h1 p =>
    if rsv ≠ 0 ∨ h1 ≠ 0 then some .reservedField
    else if p.length ≠ 0 then some .badLength
    else none

/-- The effect of a command that passes its checks. -/
def commandEffect : Instr → State → State
  | .cfg strat log2w log2l pm1 rows cols _ _, s => construct ⟨rows, cols, log2w, strat, log2l, pm1.setWidth 17 + 1⟩ s
  | .fill row chunk _ p, s => fillChunk s (coord row) (coord chunk) (assemblePayload s.cfgreg.W p)
  | .rdbit row col _ _, s => readCell s (coord row) (coord col)
  | .step _ _ _, s => advance s
  | .stat _ _ _, s => respond (statusWord s) s

/-- What a command answers: behind the gate it only responds, a failed check raises its error, and otherwise it has its
effect (rules R344, R345). -/
def answer (i : Instr) (s : State) : State :=
  if s.fatal = true then respondUnexecuted i s
  else match commandError s i with
    | some c => respondUnexecuted i (raiseFatal c s)
    | none => commandEffect i s

/-- Every meaning is gate, checks and effect, in this order (rule R344). -/
theorem exec_eq_answer (i : Instr) (s : State) : exec i s = .next (answer i s) := by
  cases i with
  | cfg =>
    simp only [exec, execCfg, failCommand, answer, respondUnexecuted, commandError, commandEffect]
    split_ifs <;> rfl
  | fill =>
    simp only [exec, execFill, failCommand, answer, respondUnexecuted, commandError, commandEffect]
    split_ifs <;> rfl
  | rdbit =>
    simp only [exec, execRdbit, failRead, answer, respondUnexecuted, commandError, commandEffect]
    split_ifs <;> rfl
  | step =>
    simp only [exec, execStep, failCommand, answer, respondUnexecuted, commandError, commandEffect]
    split_ifs <;> rfl
  | stat =>
    simp only [exec, execStat, checkStat, answer, respondUnexecuted, commandError, commandEffect]
    split_ifs <;> rfl

/-- A command has no other answer. -/
theorem eq_answer_of_exec {i : Instr} {s t : State} (h : exec i s = .next t) : t = answer i s := by
  cases (exec_eq_answer i s).symm.trans h
  rfl

/-- The first error sets FATAL and CAUSE and nothing else (rule R345). -/
theorem raiseFatal_of_not_fatal {c : Cause} {s : State} (h : s.fatal = false) :
    raiseFatal c s = { s with fatal := true, cause := c.code } := by
  simp [raiseFatal, h]

@[simp] theorem respondUnexecuted_fatal (i : Instr) (s : State) : (respondUnexecuted i s).fatal = s.fatal := by
  cases i <;> rfl

@[simp] theorem respondUnexecuted_cause (i : Instr) (s : State) : (respondUnexecuted i s).cause = s.cause := by
  cases i <;> rfl

@[simp] theorem respondUnexecuted_uninitRead (i : Instr) (s : State) :
    (respondUnexecuted i s).uninitRead = s.uninitRead := by
  cases i <;> rfl

@[simp] theorem commandEffect_fatal (i : Instr) (s : State) : (commandEffect i s).fatal = s.fatal := by
  cases i <;> simp [commandEffect]

@[simp] theorem commandEffect_cause (i : Instr) (s : State) : (commandEffect i s).cause = s.cause := by
  cases i <;> simp [commandEffect]

section
variable {i : Instr} {s : State}

theorem answer_of_fatal (i : Instr) (h : s.fatal = true) : answer i s = respondUnexecuted i s := if_pos h

theorem answer_of_error {c : Cause} (h : s.fatal = false) (herror : commandError s i = some c) :
    answer i s = respondUnexecuted i (raiseFatal c s) := by
  simp [answer, h, herror]

theorem answer_of_no_error (h : s.fatal = false) (herror : commandError s i = none) :
    answer i s = commandEffect i s := by
  simp [answer, h, herror]

/-- No effect raises an error, so a command that makes the engine fatal has failed a check (rule R345). -/
theorem exists_error_of_answer_fatal (h : s.fatal = false) (hanswer : (answer i s).fatal = true) :
    ∃ c, commandError s i = some c ∧ answer i s = respondUnexecuted i (raiseFatal c s) := by
  cases herror : commandError s i with
  | some c => exact ⟨c, rfl, answer_of_error h herror⟩
  | none => simp [answer_of_no_error h herror, h] at hanswer

end

/-! ### The fields of a command's words as numbers -/

theorem toNat_field (x : Word) (k n : Nat) : (x.extractLsb' k n).toNat = x.toNat / 2 ^ k % 2 ^ n := by
  rw [BitVec.extractLsb'_toNat, Nat.shiftRight_eq_div_pow]

/-- The top field of a word is all that stands from its lowest bit up. -/
theorem toNat_topField (x : Word) {k n : Nat} (h : k + n = 64) : (x.extractLsb' k n).toNat = x.toNat / 2 ^ k := by
  rw [toNat_field, Nat.mod_eq_of_lt (Nat.div_lt_of_lt_mul (by rw [← pow_add, h]; exact x.isLt))]

theorem toNat_bodyField (h0 : Word) : (bodyField h0).toNat = h0.toNat / 2 ^ 16 := toNat_topField h0 rfl

theorem toNat_operandA (h1 : Word) : (operandA h1).toNat = h1.toNat % 2 ^ 32 := by
  rw [operandA, toNat_field, pow_zero, Nat.div_one]

theorem toNat_operandB (h1 : Word) : (operandB h1).toNat = h1.toNat / 2 ^ 32 := toNat_topField h1 rfl

/-- A reserved payload bit is a bit of P_0 from W up (rule R89). -/
theorem payloadOverflows_eq_true_iff (w : Nat) (p : List Word) :
    payloadOverflows w p = true ↔ (p.headD 0).toNat / 2 ^ w ≠ 0 := by
  rw [payloadOverflows, bne_iff_ne, BitVec.toNat_ne, BitVec.toNat_ushiftRight, Nat.shiftRight_eq_div_pow,
    BitVec.ofNat_eq_ofNat, BitVec.toNat_zero]

/-! ### The errors read off the words are those of the checks: one lemma for each class of rule R346 -/

section
variable {h0 h1 p0 : Word} {p : List Word} {s : State}

theorem hasError_illegalOpcode_iff :
    hasError h0 h1 p0 s .illegalOpcode = true ↔ h0.toNat % 256 = 0 ∨ 5 < h0.toNat % 256 := by
  simp only [hasError, Bool.not_eq_true', Bool.and_eq_false_iff, decide_eq_false_iff_not]
  omega

theorem hasError_reservedHeader_iff_of_cfg (hopc : h0.toNat % 256 = 1) :
    hasError h0 h1 p0 s .reservedHeader = true ↔
      h0.extractLsb' 18 2 ≠ 0 ∨ h0.extractLsb' 28 4 ≠ 0 ∨ h0.extractLsb' 48 16 ≠ 0 := by
  rw [BitVec.toNat_ne, BitVec.toNat_ne, BitVec.toNat_ne, toNat_field, toNat_field, toNat_topField h0 rfl]
  simp [hasError, hopc, or_assoc]

theorem hasError_reservedHeader_iff_of_not_cfg (hopc : h0.toNat % 256 ≠ 1) :
    hasError h0 h1 p0 s .reservedHeader = true ↔ bodyField h0 ≠ 0 ∨ 4 ≤ h0.toNat % 256 ∧ h1 ≠ 0 := by
  rw [BitVec.toNat_ne, toNat_bodyField]
  simp [hasError, hopc]

theorem hasError_configuration_iff :
    hasError h0 h1 p0 s .configuration = true ↔
      h0.toNat % 256 = 1 ∧ s.cfgd = true ∨ h0.toNat % 256 ≠ 1 ∧ h0.toNat % 256 ≠ 5 ∧ s.cfgd = false := by
  by_cases hopc : h0.toNat % 256 = 1 <;> simp [hasError, hopc]

theorem hasError_badLength_iff (hlen : p.length = lenField h0) :
    hasError h0 h1 p0 s .badLength = true ↔ p.length ≠ if h0.toNat % 256 = 2 then s.cfgreg.NP else 0 := by
  rw [hlen, lenField, toNat_field]
  by_cases hopc : h0.toNat % 256 = 2 <;> simp [hasError, hopc, CfgReg.NP, CfgReg.W]

theorem hasError_reservedPayload_iff :
    hasError h0 h1 (p.headD 0) s .reservedPayload = true ↔
      h0.toNat % 256 = 2 ∧ s.cfgreg.W < 64 ∧ payloadOverflows s.cfgreg.W p = true := by
  rw [payloadOverflows_eq_true_iff]
  simp [hasError, CfgReg.W, and_assoc]

theorem hasError_badParam_iff :
    hasError h0 h1 p0 s .badParam = true ↔ h0.toNat % 256 = 1 ∧
      paramsLegal (h0.extractLsb' 16 2) (h0.extractLsb' 20 4) (h0.extractLsb' 24 4) (operandA h1) (operandB h1) = false := by
  rw [← Bool.not_eq_true, paramsLegal_iff, toNat_operandA, toNat_operandB, toNat_field, toNat_field, toNat_field]
  simp only [hasError, Bool.and_eq_true, Bool.or_eq_true, decide_eq_true_eq]
  omega

theorem hasError_dimNotMultiple_iff :
    hasError h0 h1 p0 s .dimNotMultiple = true ↔
      h0.toNat % 256 = 1 ∧ (operandB h1).toNat % 2 ^ (h0.extractLsb' 20 4).toNat ≠ 0 := by
  rw [toNat_operandB, toNat_field]
  simp [hasError]

theorem hasError_allocFail_iff :
    hasError h0 h1 p0 s .allocFail = true ↔
      h0.toNat % 256 = 1 ∧ storageBits (h0.extractLsb' 16 2) (operandA h1) (operandB h1) > s.capacity := by
  have hstrat : h0.extractLsb' 16 2 = 0#2 ↔ h0.toNat / 2 ^ 16 % 4 = 0 := by
    rw [← BitVec.toNat_inj, toNat_field]
    rfl
  rw [storageBits, toNat_operandA, toNat_operandB, cellBits]
  simp [hasError, hstrat]

/-- The search of rule R346 looks at one class after the other. -/
theorem find?_cons_eq_ite {α : Type} (f : α → Bool) (a : α) (l : List α) :
    (a :: l).find? f = if f a = true then some a else l.find? f := by
  cases h : f a <;> simp [h]

/-- The checks of a decoded command find the first error of rule R346: they stand in its order, and the classes that no
check of the command's meaning tests cannot occur with its opcode. -/
theorem map_code_commandError {i : Instr} (hlen : p.length = lenField h0) (h : decodeFields h0 h1 p = .ok i) :
    (commandError s i).map Cause.code = (firstError h0 h1 (p.headD 0) s).map (classCode h0) := by
  simp only [firstError, errorOrder, find?_cons_eq_ite, List.find?_nil, hasError_illegalOpcode_iff,
    hasError_configuration_iff, hasError_badLength_iff hlen, hasError_reservedPayload_iff, hasError_badParam_iff,
    hasError_dimNotMultiple_iff, hasError_allocFail_iff]
  rcases decodeFields_eq_ok.1 h with ⟨hopc, rfl⟩ | ⟨hopc, rfl⟩ | ⟨hopc, rfl⟩ | ⟨hopc, rfl⟩ | ⟨hopc, rfl⟩ <;>
    rw [opcField_eq_iff] at hopc <;>
    simp [hasError_reservedHeader_iff_of_cfg, hasError_reservedHeader_iff_of_not_cfg, hopc, commandError,
      apply_ite (Option.map _), classCode, Cause.code]

end

/-! ### The order of precedence -/

/-- An opcode of the table is decoded (rule R86). -/
theorem exists_decodeFields_of_legal {h0 : Word} (h1 : Word) (p : List Word)
    (hopc : ¬ (h0.toNat % 256 = 0 ∨ 5 < h0.toNat % 256)) : ∃ i, decodeFields h0 h1 p = .ok i := by
  have hlegal : h0.toNat % 256 = 1 ∨ h0.toNat % 256 = 2 ∨ h0.toNat % 256 = 3 ∨ h0.toNat % 256 = 4 ∨
      h0.toNat % 256 = 5 := by omega
  simp only [decodeFields_eq_ok, opcField_eq_iff]
  rcases hlegal with h | h | h | h | h <;> simp [h]

theorem runCommand_of_illegal {h0 : Word} (h1 : Word) (p : List Word) (s : State)
    (hopc : h0.toNat % 256 = 0 ∨ 5 < h0.toNat % 256) :
    runCommand h0 h1 p s = .next (raiseFatal .illegalOpcode s) := by
  rw [runCommand, decodeFields_of_illegal h1 p hopc, failCommand]

/-- Nothing comes before an illegal opcode (rule R346). -/
theorem firstError_of_illegal {h0 : Word} (h1 p0 : Word) (s : State)
    (hopc : h0.toNat % 256 = 0 ∨ 5 < h0.toNat % 256) : firstError h0 h1 p0 s = some .illegalOpcode :=
  List.find?_cons_of_pos (hasError_illegalOpcode_iff.2 hopc)

/-- Settles O14: an illegal opcode is the first class, and the checks of a decoded command stand in the order of the
rule. -/
theorem firstErrorByPrecedenceIsReported : Obligations.FirstErrorByPrecedenceIsReported := by
  intro s h0 h1 p hlen
  by_cases hopc : h0.toNat % 256 = 0 ∨ 5 < h0.toNat % 256
  · refine ⟨_, runCommand_of_illegal h1 p s hopc, fun hfatal _ => ?_, fun hfatal => by simp [hfatal]⟩
    simp [firstError_of_illegal h1 _ s hopc, hfatal, classCode, Cause.code]
  · obtain ⟨i, hfields⟩ := exists_decodeFields_of_legal h1 p hopc
    have hcode := map_code_commandError (s := s) hlen hfields
    refine ⟨answer i s, by rw [runCommand_of_decodeFields s hfields, exec_eq_answer], fun hfatal hcause => ⟨?_, ?_⟩,
      fun hfatal => by simp [answer_of_fatal i hfatal, hfatal]⟩
    · intro e hfirst
      rw [hfirst, Option.map_some, Option.map_eq_some_iff] at hcode
      obtain ⟨c, herror, hcode⟩ := hcode
      simp [answer_of_error hfatal herror, hfatal, hcode]
    · intro hfirst
      rw [hfirst, Option.map_none, Option.map_eq_none_iff] at hcode
      simp [answer_of_no_error hfatal hcode, hfatal, hcause]

/-! ### What a command in error does -/

/-- Settles O15: a command after which the engine is fatal has raised its error and only responded. -/
theorem failingCommandHasNoOtherEffect : Obligations.FailingCommandHasNoOtherEffect := by
  refine ⟨fun _ _ => rfl, fun s t i hfatal h htfatal => ?_⟩
  obtain rfl := eq_answer_of_exec h
  obtain ⟨c, -, hanswer⟩ := exists_error_of_answer_fatal hfatal htfatal
  rw [hanswer, raiseFatal_of_not_fatal hfatal]
  cases i <;> rfl

/-- Settles O43: a STEP that meets the gate changes nothing, a failing one FATAL and CAUSE, and a completed one leaves an
engine that is not fatal. -/
theorem failingStepFrame : Obligations.FailingStepFrame := by
  intro s t rsv h1 p h htfatal
  rcases execStep_cases h with ⟨hfatal, rfl⟩ | ⟨hfatal, c, rfl⟩ | ⟨hfatal, -, rfl⟩
  · exact ⟨by rw [← hfatal], fun _ _ => rfl⟩
  · exact ⟨by simp [raiseFatal_of_not_fatal hfatal], gread_raiseFatal c s⟩
  · simp [hfatal] at htfatal

/-- Only the checks of CFG raise the construction errors (rules R342, R343). -/
theorem eq_cfg_of_commandError {i : Instr} {s : State} {c : Cause} (herror : commandError s i = some c)
    (hc : c = .dimNotMultiple ∨ c = .allocFail) :
    ∃ strat log2w log2l pm1 rows cols rsv p, i = .cfg strat log2w log2l pm1 rows cols rsv p := by
  cases i with
  | cfg => exact ⟨_, _, _, _, _, _, _, _, rfl⟩
  | fill | rdbit | step | stat =>
    simp only [commandError] at herror
    split_ifs at herror <;> cases herror <;> simp at hc

/-- The codes of the construction errors are no other cause's (rule R341). -/
theorem Cause.construction_of_code {c : Cause} (h : c.code = 0x01 ∨ c.code = 0x02) :
    c = .dimNotMultiple ∨ c = .allocFail := by
  cases c <;> simp [Cause.code] at h ⊢

/-- Settles O18: the cause is that of a failed check. -/
theorem constructionErrorsComeFromCfgOnly : Obligations.ConstructionErrorsComeFromCfgOnly := by
  intro s t i h hfatal htfatal hcause
  obtain rfl := eq_answer_of_exec h
  obtain ⟨c, herror, hanswer⟩ := exists_error_of_answer_fatal hfatal htfatal
  have hcode : (answer i s).cause = c.code := by simp [hanswer, hfatal]
  rw [hcode] at hcause
  exact eq_cfg_of_commandError herror (Cause.construction_of_code hcause)

/-! ### The gate and the fatal state -/

/-- What the gate leaves of a decoded command, by its opcode (rule R344). -/
theorem respondUnexecuted_of_decodeFields {h0 h1 : Word} {p : List Word} {i : Instr} (s : State)
    (h : decodeFields h0 h1 p = .ok i) :
    respondUnexecuted i s = if h0.toNat % 256 = 3 then respond errorWord s
      else if h0.toNat % 256 = 5 then respond (statusWord s) s else s := by
  rcases decodeFields_eq_ok.1 h with ⟨hopc, rfl⟩ | ⟨hopc, rfl⟩ | ⟨hopc, rfl⟩ | ⟨hopc, rfl⟩ | ⟨hopc, rfl⟩ <;>
    simp [respondUnexecuted, opcField_eq_iff.1 hopc]

/-- Before construction a FILL, RDBIT or STEP with no reserved bit set fails its CFGD check (rules R344, R346). -/
theorem commandError_of_unconfigured {h0 h1 : Word} {p : List Word} {i : Instr} {s : State}
    (h : decodeFields h0 h1 p = .ok i) (hcfgd : s.cfgd = false) (hlow : 2 ≤ h0.toNat % 256) (hhigh : h0.toNat % 256 ≤ 4)
    (hbody : bodyField h0 = 0) (hh1 : h0.toNat % 256 = 4 → h1 = 0) : commandError s i = some .notConfigured := by
  rcases decodeFields_eq_ok.1 h with ⟨hopc, rfl⟩ | ⟨hopc, rfl⟩ | ⟨hopc, rfl⟩ | ⟨hopc, rfl⟩ | ⟨hopc, rfl⟩ <;>
    rw [opcField_eq_iff] at hopc
  · simp [hopc] at hlow
  · simp [commandError, hbody, hcfgd]
  · simp [commandError, hbody, hcfgd]
  · simp [commandError, hbody, hcfgd, hh1 hopc]
  · simp [hopc] at hhigh

/-- Settles O16: an illegal opcode is not decoded, and a decoded command begins with the gate. -/
theorem gateDecidesWhatRuns : Obligations.GateDecidesWhatRuns := by
  intro s h0 h1 p
  by_cases hopc : h0.toNat % 256 = 0 ∨ 5 < h0.toNat % 256
  · rw [if_pos hopc]
    exact runCommand_of_illegal h1 p s hopc
  rw [if_neg hopc]
  obtain ⟨i, hfields⟩ := exists_decodeFields_of_legal h1 p hopc
  have hrun := runCommand_of_decodeFields s hfields
  split
  next hfatal =>
    rw [hrun, exec_eq_answer, answer_of_fatal i hfatal, respondUnexecuted_of_decodeFields s hfields]
    rfl
  next hfatal =>
    rw [Bool.not_eq_true] at hfatal
    refine ⟨i, hfields, hrun, fun hcfgd hlow hhigh hbody hh1 => ⟨answer i s, exec_eq_answer i s, ?_⟩⟩
    have hbody' : bodyField h0 = 0 := BitVec.eq_of_toNat_eq ((toNat_bodyField h0).trans hbody)
    rw [answer_of_error hfatal (commandError_of_unconfigured hfields hcfgd hlow hhigh hbody' hh1)]
    simp [hfatal, Cause.code]

/-- A command taken off the channel keeps FATAL and CAUSE of a fatal engine (rules R345, R348). -/
theorem runCommand_keeps_fatal {h0 h1 : Word} {p : List Word} {s t : State}
    (h : runCommand h0 h1 p s = .next t) (hfatal : s.fatal = true) : t.fatal = true ∧ t.cause = s.cause := by
  rcases runCommand_cases h with ⟨i, -, hexec⟩ | ⟨-, rfl⟩
  · simp [eq_answer_of_exec hexec, answer_of_fatal i hfatal, hfatal]
  · simp [hfatal]

/-- Settles O17: of all a step can do only the reset writes FATAL or CAUSE of a fatal engine. -/
theorem onlyResetLeavesTheFatalState : Obligations.OnlyResetLeavesTheFatalState := by
  intro s t hfatal h
  rcases step_cases h with ⟨ms, hreset, rfl⟩ | ⟨ms, -, rfl⟩ | ⟨-, rfl⟩ | ⟨h0, h1, p, rest, -, hrun⟩
  · exact .inr ⟨⟨ms, hreset⟩, rfl, rfl⟩
  · exact .inl ⟨hfatal, rfl⟩
  · exact .inl ⟨hfatal, rfl⟩
  · have hkept := runCommand_keeps_fatal hrun hfatal
    exact .inl hkept

/-! ### UNINIT_READ -/

/-- No command clears the record of UNINIT_READ (rule R350). -/
theorem uninitRead_answer (i : Instr) {s : State} (h : s.uninitRead = true) : (answer i s).uninitRead = true := by
  unfold answer
  split
  · simp [h]
  · split
    · simp [h]
    · cases i <;> simp [commandEffect, h]

/-- Settles O31: the reset and the other moves leave the record as it is, and no command clears it. -/
theorem uninitReadIsNeverCleared : Obligations.UninitReadIsNeverCleared := by
  intro s t hread h
  rcases step_cases h with ⟨ms, -, rfl⟩ | ⟨ms, -, rfl⟩ | ⟨-, rfl⟩ | ⟨h0, h1, p, rest, -, hrun⟩
  · exact hread
  · exact hread
  · exact hread
  · rcases runCommand_cases hrun with ⟨i, -, hexec⟩ | ⟨-, rfl⟩
    · rw [eq_answer_of_exec hexec]
      exact uninitRead_answer i hread
    · simpa using hread

/-- Settles O30: both commands are executed, over an unwritten word. -/
theorem unseededReadsAreRecorded : Obligations.UnseededReadsAreRecorded := by
  refine ⟨fun s row col hready hunwritten => ?_, fun s i hready hi hunwritten => ?_⟩
  · exact ⟨_, execRdbit_of_ready row col hready, by simp [hunwritten], by simp⟩
  · have hseeded : s.seeded = false := seeded_eq_false_iff.2 ⟨i, hi, hunwritten⟩
    exact ⟨_, execStep_of_ready hready, by simp [hseeded], advance_cur s⟩

end Sys2Proof.Machine
end

section
/-! PROOFS. After reset and between the moves of the host: an unconfigured engine (rule R382), a response taken
(rules R385, R394), and that a run yields the same whether or not the host takes its responses (rule R393). -/

namespace Sys2Proof.Machine

/-! ### The engine after reset, and one take -/

/-- Settles O19: no check of the three commands comes between the reserved bits and CFGD. -/
theorem unconfiguredCommandsFail : Obligations.UnconfiguredCommandsFail := by
  intro s a b p hcfgd hfatal
  have hfails : ∀ i, commandError s i = some .notConfigured →
      exec i s = .next (respondUnexecuted i { s with fatal := true, cause := 0x05 }) := fun i herror => by
    rw [exec_eq_answer, answer_of_error hfatal herror, raiseFatal_of_not_fatal hfatal]
    rfl
  refine ⟨hfails _ ?_, hfails _ ?_, hfails _ ?_⟩ <;> simp [commandError, hcfgd]

/-- Settles O10: the step is the take, which moves the one word. -/
theorem takingAResponseRemovesTheOldest : Obligations.TakingAResponseRemovesTheOldest := by
  intro s v vs ms hhost hrspq
  refine ⟨takeResponse { s with host := ms }, by rw [step, nextTransition, hhost], by simp [takeResponse, hrspq], ?_⟩
  rw [responses_takeResponse]
  rfl

/-! ### The engine and its channels -/

/-- A state without what stands in its channels and what the host has taken from them. -/
def State.engine (s : State) : State := { s with dec := [], rspq := [], taken := [], host := [] }

/-- `e` with the channels of `c`, whose responses come before those of `e`. -/
def State.withChannels (e c : State) : State :=
  { e with dec := c.dec, rspq := c.rspq ++ e.rspq, taken := c.taken, host := c.host }

@[simp] theorem withChannels_cfgreg (e c : State) : (e.withChannels c).cfgreg = e.cfgreg := rfl

/-- A state is its engine with its channels. -/
theorem engine_withChannels_self (s : State) : s.engine.withChannels s = s := by
  simp [State.engine, State.withChannels]

theorem responses_withChannels (e c : State) : (e.withChannels c).responses = c.responses ++ e.rspq :=
  (List.append_assoc ..).symm

theorem respond_withChannels (v : Word) (e c : State) : respond v (e.withChannels c) = (respond v e).withChannels c := by
  simp [respond, State.withChannels]

theorem raiseFatal_withChannels (x : Cause) (e c : State) :
    raiseFatal x (e.withChannels c) = (raiseFatal x e).withChannels c := by
  cases hfatal : e.fatal with
  | true => rw [raiseFatal_of_fatal hfatal, raiseFatal_of_fatal (s := e.withChannels c) hfatal]
  | false =>
    rw [raiseFatal_of_not_fatal hfatal, raiseFatal_of_not_fatal (s := e.withChannels c) hfatal]
    rfl

theorem setBuf_withChannels (b : Bool) (m : Memory) (e c : State) :
    (e.withChannels c).setBuf b m = (e.setBuf b m).withChannels c := by
  cases b <;> rfl

theorem fillChunk_withChannels (e c : State) (row chunk : Int) (v : BitVec e.cfgreg.W) :
    fillChunk (e.withChannels c) row chunk v = (fillChunk e row chunk v).withChannels c := by
  by_cases hstrat : e.cfgreg.STRAT = 0
  · have hleft : fillChunk (e.withChannels c) row chunk v = _ := if_pos hstrat
    have hright : fillChunk e row chunk v = _ := if_pos hstrat
    rw [hleft, hright]
    exact setBuf_withChannels ..
  · have hleft : fillChunk (e.withChannels c) row chunk v = _ := if_neg hstrat
    have hright : fillChunk e row chunk v = _ := if_neg hstrat
    rw [hleft, hright]
    exact setBuf_withChannels ..

theorem advance_withChannels (e c : State) : advance (e.withChannels c) = (advance e).withChannels c := by
  have hbuf : (recordUninit (!e.seeded) (e.withChannels c)).setBuf (!e.cur) (nextBuffer e) =
      ((recordUninit (!e.seeded) e).setBuf (!e.cur) (nextBuffer e)).withChannels c :=
    setBuf_withChannels _ _ (recordUninit (!e.seeded) e) c
  exact congrArg swapBuffers hbuf

theorem respondUnexecuted_withChannels (i : Instr) (e c : State) :
    respondUnexecuted i (e.withChannels c) = (respondUnexecuted i e).withChannels c := by
  cases i with
  | cfg | fill | step => rfl
  | rdbit | stat => exact respond_withChannels _ e c

theorem commandError_withChannels (e c : State) (i : Instr) : commandError (e.withChannels c) i = commandError e i := by
  cases i <;> rfl

theorem commandEffect_withChannels (i : Instr) (e c : State) :
    commandEffect i (e.withChannels c) = (commandEffect i e).withChannels c := by
  cases i with
  | cfg => rfl
  | fill => exact fillChunk_withChannels e c _ _ _
  | rdbit => exact respond_withChannels _ (recordUninit _ e) c
  | step => exact advance_withChannels e c
  | stat => exact respond_withChannels _ e c

/-- No command depends on the channels: it appends its responses and leaves the rest of them as it is (rules R13, R60). -/
theorem answer_withChannels (i : Instr) (e c : State) : answer i (e.withChannels c) = (answer i e).withChannels c := by
  have hchecks := commandError_withChannels e c i
  cases hfatal : e.fatal with
  | true =>
    rw [answer_of_fatal i hfatal, answer_of_fatal (s := e.withChannels c) i hfatal, respondUnexecuted_withChannels]
  | false =>
    cases herror : commandError e i with
    | some x =>
      rw [answer_of_error hfatal herror, answer_of_error (s := e.withChannels c) hfatal (hchecks.trans herror),
        raiseFatal_withChannels, respondUnexecuted_withChannels]
    | none =>
      rw [answer_of_no_error hfatal herror, answer_of_no_error (s := e.withChannels c) hfatal (hchecks.trans herror),
        commandEffect_withChannels]

/-- Nor does a command taken off the channel, an illegal one included. -/
theorem runCommand_withChannels (h0 h1 : Word) (p : List Word) (e : State) :
    ∃ f : State, ∀ c, runCommand h0 h1 p (e.withChannels c) = .next (f.withChannels c) := by
  cases hfields : decodeFields h0 h1 p with
  | ok i =>
    exact ⟨answer i e, fun c => by rw [runCommand_of_decodeFields _ hfields, exec_eq_answer, answer_withChannels]⟩
  | error x =>
    exact ⟨raiseFatal .illegalOpcode e, fun c => by
      simp only [runCommand, hfields, failCommand, raiseFatal_withChannels]⟩

/-- Two states with the same engine that have yielded the same responses answer a command alike. -/
theorem runCommand_agrees {h0 h1 : Word} {p : List Word} {s t u : State} (h : runCommand h0 h1 p s = .next u)
    (hengine : t.engine = s.engine) (hresponses : t.responses = s.responses) :
    ∃ v, runCommand h0 h1 p t = .next v ∧ v.engine = u.engine ∧ v.responses = u.responses := by
  obtain ⟨f, hf⟩ := runCommand_withChannels h0 h1 p s.engine
  have hs := hf s
  have ht := hf t
  rw [engine_withChannels_self] at hs
  rw [← hengine, engine_withChannels_self] at ht
  cases hs.symm.trans h
  refine ⟨f.withChannels t, ht, rfl, ?_⟩
  rw [responses_withChannels, responses_withChannels, hresponses]

/-- A command taken off the channel leaves the rest of the channel and DEC alone (rule R60). -/
theorem runCommand_frame {h0 h1 : Word} {p : List Word} {s t : State} (h : runCommand h0 h1 p s = .next t) :
    t.host = s.host ∧ t.dec = s.dec := by
  obtain ⟨t', ht', hframe⟩ := runCommand_answers h0 h1 p s
  cases ht'.symm.trans h
  exact hframe

/-- A run yields the engine's status and cells and its responses (rule R393). -/
theorem sameYield_of_engine_eq {s t : State} (hengine : t.engine = s.engine) (hresponses : t.responses = s.responses) :
    SameYield s t where
  responses := hresponses.symm
  cfgd := (congrArg State.cfgd hengine).symm
  fatal := (congrArg State.fatal hengine).symm
  cause := (congrArg State.cause hengine).symm
  cur := (congrArg State.cur hengine).symm
  cells _ row col := (congrArg (grid · row col) hengine).symm

/-! ### Words on the channel -/

theorem sendWords_append (ws ws' : List Word) : sendWords (ws ++ ws') = sendWords ws ++ sendWords ws' :=
  List.map_append

/-- A step whose next move is a word is the command channel's (rule R394). -/
theorem step_of_leadingWords {s : State} (h : (leadingWords s.host).1 ≠ []) : step s = receive s := by
  rw [step, nextTransition]
  split
  next ms hms => simp [hms, leadingWords] at h
  next ms hms => simp [hms, leadingWords] at h
  next => rfl

/-- Runs follow each other. -/
theorem core_run_trans {s t u : State} {k k' : Nat} (h : core.run k s = .next t) (h' : core.run k' t = .next u) :
    core.run (k + k') s = .next u := by
  induction k generalizing s with
  | zero =>
    cases h
    rwa [Nat.zero_add]
  | succ k ih =>
    obtain ⟨v, hv⟩ := everyStepAnswersANextState s
    rw [core_run_succ k hv] at h
    rw [Nat.succ_add, core_run_succ _ hv]
    exact ih h

/-- Words that are no whole command all come to wait in DEC, however many of them wait there already (rule R85). -/
theorem run_drains {t : State} {d : List Word} {ms : List HostMove} (hd : splitCommand d = none)
    (hms : (leadingWords ms).1 = []) (hstream : sendWords t.dec ++ t.host = sendWords d ++ ms) :
    ∃ k, core.run k t = .next { t with dec := d, host := ms } := by
  have hrest : (leadingWords ms).2 = ms := by simpa [hms] using sendWords_leadingWords ms
  have hlead := congrArg leadingWords hstream
  rw [leadingWords_sendWords, leadingWords_sendWords, hms, hrest, List.append_nil, Prod.mk.injEq] at hlead
  obtain ⟨hdec, hhost⟩ := hlead
  by_cases hwords : (leadingWords t.host).1 = []
  · have hthost := sendWords_leadingWords t.host
    rw [hwords, hhost] at hthost
    rw [hwords, List.append_nil] at hdec
    exact ⟨0, by rw [← hdec, show ms = t.host from hthost]; rfl⟩
  · have hstep : step t = .next { t with dec := d, host := ms } := by
      rw [step_of_leadingWords hwords, receive_of_partial rfl (by rwa [hdec]), hdec, hhost]
    exact ⟨1, core_run_succ 0 hstep⟩

/-- Leaving out the takes leaves the words sent. -/
theorem filter_take_sendWords_append (ws : List Word) (ms : List HostMove) :
    (sendWords ws ++ ms).filter (· != .take) = sendWords ws ++ ms.filter (· != .take) := by
  have hwords : (sendWords ws).filter (· != .take) = sendWords ws := List.filter_eq_self.2 (by simp [sendWords])
  rw [List.filter_append, hwords]

/-- Without the takes the channel begins with the same words. -/
theorem filter_take_eq (ms : List HostMove) :
    ms.filter (· != .take) = sendWords (leadingWords ms).1 ++ (leadingWords ms).2.filter (· != .take) := by
  conv_lhs => rw [← sendWords_leadingWords ms]
  exact filter_take_sendWords_append _ _

/-! ### A run with takes and one without -/

/-- `t` has come as far without the takes as `s` with them: the engines are the same, the same has been responded, and
the words in DEC followed by the moves to come are the same but for the takes. DEC itself may differ, because a take
between the words of a command makes the words before it wait there. -/
structure SameButTakes (s t : State) : Prop where
  engine : t.engine = s.engine
  responses : t.responses = s.responses
  stream : sendWords t.dec ++ t.host = sendWords s.dec ++ s.host.filter (· != .take)
  partialLeft : splitCommand s.dec = none
  partialRight : splitCommand t.dec = none

namespace SameButTakes

variable {s t u : State}

/-- The reset discards what waits in DEC, which without the takes may have to come there first. -/
theorem of_reset {ms : List HostMove} (h : SameButTakes s t) (hhost : s.host = .reset :: ms) :
    ∃ k v, core.run k t = .next v ∧ SameButTakes (resetTransition { s with host := ms }) v := by
  have hstream := h.stream
  rw [hhost] at hstream
  obtain ⟨k, hk⟩ := run_drains (ms := .reset :: ms.filter (· != .take)) h.partialLeft rfl hstream
  have hengine : (resetTransition t.engine).engine = (resetTransition s.engine).engine := by rw [h.engine]
  exact ⟨k + 1, _, core_run_trans hk (core_run_succ 0 rfl), hengine, rfl, rfl, rfl, rfl⟩

theorem of_take {ms : List HostMove} (h : SameButTakes s t) (hhost : s.host = .take :: ms) :
    SameButTakes (takeResponse { s with host := ms }) t where
  engine := h.engine
  responses := h.responses.trans (responses_takeResponse _).symm
  stream := by simpa [hhost] using h.stream
  partialLeft := h.partialLeft
  partialRight := h.partialRight

theorem of_partial (h : SameButTakes s t) (hsplit : splitCommand (s.dec ++ (leadingWords s.host).1) = none) :
    SameButTakes { s with dec := s.dec ++ (leadingWords s.host).1, host := (leadingWords s.host).2 } t where
  engine := h.engine
  responses := h.responses
  stream := by rw [h.stream, filter_take_eq, sendWords_append, List.append_assoc]
  partialLeft := hsplit
  partialRight := h.partialRight

/-- The words of a command that is whole with the takes stand together without them too, so one step runs it. -/
theorem of_command {h0 h1 : Word} {p rest : List Word} (h : SameButTakes s t)
    (hsplit : splitCommand (s.dec ++ (leadingWords s.host).1) = some (h0, h1, p, rest))
    (hrun : runCommand h0 h1 p { s with dec := [], host := sendWords rest ++ (leadingWords s.host).2 } = .next u) :
    ∃ v, step t = .next v ∧ SameButTakes u v := by
  have hstream := h.stream
  rw [filter_take_eq, ← List.append_assoc, ← sendWords_append] at hstream
  generalize hms : (leadingWords s.host).2.filter (· != .take) = ms at hstream
  have hlead := congrArg leadingWords hstream
  rw [leadingWords_sendWords, leadingWords_sendWords, Prod.mk.injEq] at hlead
  obtain ⟨hwords, hmoves⟩ := hlead
  have hsplit' := splitCommand_append_right (leadingWords ms).1 hsplit
  rw [← hwords] at hsplit'
  have hne : (leadingWords t.host).1 ≠ [] := fun hnil => by
    rw [hnil, List.append_nil, h.partialRight] at hsplit'
    cases hsplit'
  obtain ⟨v, hv, hengine, hresponses⟩ := runCommand_agrees
    (t := { t with dec := [], host := sendWords (rest ++ (leadingWords ms).1) ++ (leadingWords t.host).2 })
    hrun h.engine h.responses
  have hstep : step t = .next v := by
    rw [step_of_leadingWords hne, receive]
    simp only [hsplit', hv]
  obtain ⟨huhost, hudec⟩ := runCommand_frame hrun
  obtain ⟨hvhost, hvdec⟩ := runCommand_frame hv
  refine ⟨v, hstep, hengine, hresponses, ?_, by rw [hudec]; rfl, by rw [hvdec]; rfl⟩
  rw [hvhost, hvdec, huhost, hudec, hmoves, filter_take_sendWords_append, hms, sendWords_append, List.append_assoc,
    sendWords_leadingWords]

/-- Each step with the takes is matched by a run without them. -/
theorem of_step (h : SameButTakes s t) (hstep : step s = .next u) :
    ∃ k v, core.run k t = .next v ∧ SameButTakes u v := by
  rcases step_cases hstep with ⟨ms, hhost, rfl⟩ | ⟨ms, hhost, rfl⟩ | ⟨hsplit, rfl⟩ | ⟨h0, h1, p, rest, hsplit, hrun⟩
  · exact h.of_reset hhost
  · exact ⟨0, t, rfl, h.of_take hhost⟩
  · exact ⟨0, t, rfl, h.of_partial hsplit⟩
  · obtain ⟨v, hv, hsame⟩ := h.of_command hsplit hrun
    exact ⟨1, v, core_run_succ 0 hv, hsame⟩

theorem of_run {k : Nat} (h : SameButTakes s t) (hrun : core.run k s = .next u) :
    ∃ k' v, core.run k' t = .next v ∧ SameButTakes u v := by
  induction k generalizing s t with
  | zero =>
    cases hrun
    exact ⟨0, t, rfl, h⟩
  | succ k ih =>
    obtain ⟨w, hw⟩ := everyStepAnswersANextState s
    rw [core_run_succ k hw] at hrun
    obtain ⟨k₁, w', hrun₁, hsame⟩ := h.of_step hw
    obtain ⟨k₂, v, hrun₂, hsame'⟩ := ih hsame hrun
    exact ⟨k₁ + k₂, v, core_run_trans hrun₁ hrun₂, hsame'⟩

/-- Once all moves have been seen with the takes, the run without them sees its last words into the same DEC. -/
theorem of_host_nil (h : SameButTakes s t) (hhost : s.host = []) :
    ∃ k, core.run k t = .next { t with dec := s.dec, host := [] } :=
  run_drains h.partialLeft rfl (by simpa [hhost] using h.stream)

end SameButTakes

/-- Settles O53: the run that sees all moves is matched step by step by one without the takes. -/
theorem takingResponsesDoesNotChangeTheYield : Obligations.TakingResponsesDoesNotChangeTheYield := by
  intro s hinv
  obtain ⟨k, t, -, hrun, hhost, -⟩ := run_consumes_host s hinv.decPartial
  have hstart : SameButTakes s { s with host := s.host.filter (· != .take) } :=
    ⟨rfl, rfl, rfl, hinv.decPartial, hinv.decPartial⟩
  obtain ⟨k₁, v, hrun₁, hsame⟩ := hstart.of_run hrun
  obtain ⟨k₂, hrun₂⟩ := hsame.of_host_nil hhost
  have huninit := congrArg State.uninitRead hsame.engine
  refine ⟨k, t, k₁ + k₂, _, hrun, hhost, core_run_trans hrun₁ hrun₂, rfl,
    sameYield_of_engine_eq hsame.engine hsame.responses, rfl, ?_⟩
  exact ⟨fun h => ⟨rfl, h.idle, huninit.trans h.noUninit⟩, fun h => ⟨hhost, h.idle, huninit.symm.trans h.noUninit⟩⟩

end Sys2Proof.Machine
end
